-- ==== Sys2Proof/Word.lean ====
section
/-! DEFINITION. The words of the codec core: byte, 32-bit word, the five frame lanes (R39), the six layouts (R3). -/

namespace Sys2Proof

/-- A byte is 8 bits, bit 0 the least significant (R10). -/
abbrev Byte := BitVec 8

/-- The 32-bit value width of `arg` and `RSP_VAL` (R8, R51). -/
abbrev Word := BitVec 32

/-- The five lanes of a frame port, `in_data[0..4]` or `RSP_DATA[0..4]`; lane `i` is frame byte `i` (R39). -/
structure Lanes where
  d0 : Byte
  d1 : Byte
  d2 : Byte
  d3 : Byte
  d4 : Byte
deriving DecidableEq, Repr, Inhabited

/-- All five lanes 0x00. -/
def Lanes.zero : Lanes := ⟨0, 0, 0, 0, 0⟩

/-- Lane `i`; there is no lane above 4, and the answer there is 0x00. -/
def Lanes.lane (d : Lanes) (i : Nat) : Byte :=
  match i with
  | 0 => d.d0
  | 1 => d.d1
  | 2 => d.d2
  | 3 => d.d3
  | 4 => d.d4
  | _ => 0

/-- The six wire layouts; "No other layout, option or extension exists" (R3). -/
inductive Layout where
  | boolean
  | bool3
  | unsigned8
  | unsigned32
  | signed32
  | float16
deriving DecidableEq, Repr

end Sys2Proof
end

