-- ==== Sys2Proof/Config.lean ====
section
/-! DEFINITION. What is fixed when the block is built (R8, R27), and the register contents at power-up, which the
spec leaves unspecified (R162). -/

namespace Sys2Proof

/-- `F16_ARITH`: how PACK.F16 clamps and scales and how UNPACK.F16 rounds (R8, D13, D14). -/
inductive F16Arith where
  | exact
  | binary32
deriving DecidableEq, Repr

/-- The implementation parameters (R8); "No other parameter exists". `LEN_W` is an integer of at least 3. -/
structure Params where
  lenW : Nat
  f16Arith : F16Arith
  lenW_ge : 3 ≤ lenW
deriving DecidableEq, Repr

/-- `LEN_W`, the width of `in_len`; this hardware takes 8 (R8, D9). -/
abbrev Config.lenW : Nat := 8

/-- `F16_ARITH` of this hardware: EXACT (R8, D13, D14). -/
def Config.f16Arith : F16Arith := .exact

/-- The parameters of this hardware (R8). -/
abbrev Config.params : Params := { lenW := Config.lenW, f16Arith := Config.f16Arith, lenW_ge := by decide }

/-- Unspecified before the first reset edge (R162): a free value (log 5). -/
opaque Config.powerUpValid : Bool
/-- Unspecified before the first reset edge (R162): a free value (log 5). -/
opaque Config.powerUpStatus : BitVec 2
/-- Unspecified before the first reset edge (R162): a free value (log 5). -/
opaque Config.powerUpLen : BitVec 3
/-- Unspecified before the first reset edge (R162): a free value (log 5). -/
opaque Config.powerUpData : Lanes
/-- Unspecified before the first reset edge (R162): a free value (log 5). -/
opaque Config.powerUpVal : Word
/-- Unspecified before the first reset edge (R162): a free value (log 5). -/
opaque Config.powerUpCtl : Bool

end Sys2Proof
end

