-- ==== Sys2Proof/Machine/Operands.lean ====
section
/-! DEFINITION. Operand formation (R12, R56), frame lengths (R58) and big-endian byte selection (R37, R59). -/

namespace Sys2Proof.Machine

/-- `s32(w)`: the 32-bit word read as two's complement, `w - 2^32` if `w[31] = 1`, else `w` (R12). -/
def s32 (w : Word) : Int := if w.getLsbD 31 then (w.toNat : Int) - 2 ^ 32 else (w.toNat : Int)

/-- `u32(v)`: the 32-bit word of an integer modulo 2^32 (R12). -/
def u32 (v : Int) : Word := BitVec.ofInt 32 v

/-- `zext_32` of a 1-bit value (R12, R61). -/
def zextBit (b : Bool) : Word := if b then 1 else 0

/-- `zext_32` of a 3-bit or 8-bit value (R12, R61). -/
def zext32 (w : Nat) (v : BitVec w) : Word := v.setWidth 32

/-- `arg[0] = 1`, the operand of PACK.BOOL; `arg[31:1]` is ignored (R56). -/
def argBit (arg : Word) : Bool := arg.getLsbD 0

/-- `arg[7:0]`, the operand of PACK.U8; `arg[31:8]` is ignored (R56). -/
def argByte (arg : Word) : Byte := arg.extractLsb' 0 8

/-- `arg[LEN_W-1:0]` as an unsigned integer, the expected length of CHKLEN (R56, R78). -/
def argLength (lenW : Nat) (arg : Word) : Nat := arg.toNat % 2 ^ lenW

/-- The fixed frame length of each layout (R58). -/
def frameLen : Layout → Nat
  | .boolean => 1
  | .bool3 => 1
  | .unsigned8 => 2
  | .unsigned32 => 5
  | .signed32 => 5
  | .float16 => 3

/-- The layout number in the op field, "in the source's order" (R54). -/
def layoutNumber : Layout → Nat
  | .boolean => 0
  | .bool3 => 1
  | .unsigned8 => 2
  | .unsigned32 => 3
  | .signed32 => 4
  | .float16 => 5

/-- Frame byte `k` of a 32-bit layout, `w[39-8k : 32-8k]` for `k` in 1..4 (R59): byte 1 is the most significant. -/
def wordByte (w : Word) (k : Nat) : Byte := w.extractLsb' (32 - 8 * k) 8

/-- `{d[1], d[2], d[3], d[4]}`, `d[1]` most significant (R37, R94). -/
def wordOfLanes (d : Lanes) : Word := d.d1 ++ d.d2 ++ d.d3 ++ d.d4

end Sys2Proof.Machine
end

