-- ==== Sys2Proof/Syntax.lean ====
section
/-! DEFINITION. The instructions: one constructor per row of spec/opcode_table.json, with the operands that rule R56
gives it (`unpack_*(n, d)` takes all lanes, as R61 writes it; which of them it reads is its meaning's business). -/

namespace Sys2Proof

/-- The operations of the op map R55. -/
inductive Instr where
  /-- 0x0 `PACK.BOOL` (R87): `b = (arg[0] = 1)`. -/
  | packBool (b : Bool)
  /-- 0x1 `UNPACK.BOOL` (R88): presented length and lanes. -/
  | unpackBool (n : Nat) (d : Lanes)
  /-- 0x2 `PACK.B3U` (R89): `control = (in_ctl = 1)`, `value = arg`. -/
  | packB3u (control : Bool) (value : Word)
  /-- 0x3 `UNPACK.B3U` (R90). -/
  | unpackB3u (n : Nat) (d : Lanes)
  /-- 0x4 `PACK.U8` (R91): `i = arg[7:0]`. -/
  | packU8 (i : Byte)
  /-- 0x5 `UNPACK.U8` (R92). -/
  | unpackU8 (n : Nat) (d : Lanes)
  /-- 0x6 `PACK.U32` (R93): `w = arg`. -/
  | packU32 (w : Word)
  /-- 0x7 `UNPACK.U32` (R94). -/
  | unpackU32 (n : Nat) (d : Lanes)
  /-- 0x8 `PACK.S32` (R95): `i = s32(arg)`, an integer in [-2^31, 2^31 - 1]. -/
  | packS32 (i : Int)
  /-- 0x9 `UNPACK.S32` (R96). -/
  | unpackS32 (n : Nat) (d : Lanes)
  /-- 0xA `PACK.F16` (R118, R119): a binary32 word. -/
  | packF16 (x : Word)
  /-- 0xB `UNPACK.F16` (R121, R122). -/
  | unpackF16 (n : Nat) (d : Lanes)
  /-- 0xC `CHKLEN` (R78): presented length `n`, expected length `N = arg[LEN_W-1:0]`. -/
  | chklen (n : Nat) (expected : Nat)
  /-- 0xD, reserved (R62). -/
  | reservedD
  /-- 0xE, reserved (R62). -/
  | reservedE
  /-- 0xF, reserved (R62). -/
  | reservedF
deriving DecidableEq, Repr

end Sys2Proof
end

