-- ==== Sys2Proof/WellFormed.lean ====
section
/-! DEFINITION. Which instructions a request can carry: the operand ranges of rule R56. -/

namespace Sys2Proof

/-- A length that the `LEN_W`-bit field `in_len` (or `arg[LEN_W-1:0]`) can hold (R51, R56, R79). -/
def fitsLength (lenW n : Nat) : Bool := decide (n < 2 ^ lenW)

/-- An integer that `s32` of a 32-bit word can be: [-2^31, 2^31 - 1] (R95). -/
def fitsSigned32 (i : Int) : Bool := decide (-(2 ^ 31) ≤ i) && decide (i < 2 ^ 31)

/-- The instruction is the reading of some request of a block with `LEN_W = lenW` (R56). Every other operand takes
every value of its type (R62: no value of any request field is illegal for a defined op). -/
def Instr.wf (lenW : Nat) (i : Instr) : Bool :=
  match i with
  | .packBool _ => true
  | .unpackBool n _ => fitsLength lenW n
  | .packB3u _ _ => true
  | .unpackB3u n _ => fitsLength lenW n
  | .packU8 _ => true
  | .unpackU8 n _ => fitsLength lenW n
  | .packU32 _ => true
  | .unpackU32 n _ => fitsLength lenW n
  | .packS32 v => fitsSigned32 v
  | .unpackS32 n _ => fitsLength lenW n
  | .packF16 _ => true
  | .unpackF16 n _ => fitsLength lenW n
  | .chklen n expected => fitsLength lenW n && fitsLength lenW expected
  | .reservedD => true
  | .reservedE => true
  | .reservedF => true

end Sys2Proof
end

