-- ==== Sys2Proof/Decode.lean ====
section
/-! DEFINITION. The request format (R53), the decoder (R54 to R56) and the encoder, and the packed word of a request
(log 3: the spec gives a request no packed word). -/

namespace Sys2Proof

open Sys2Proof.Machine

/-- A request: "Every request carries every field" (R53, widths R51). -/
structure Request (lenW : Nat) where
  op : BitVec 4
  inCtl : Bool
  arg : Word
  inLen : BitVec lenW
  inData : Lanes
deriving DecidableEq, Repr

/-- The op map R55 with the operand formation R56. Every code has a row; the last arm is 0xF, since `op` has 4 bits. -/
def decode {lenW : Nat} (r : Request lenW) : Instr :=
  match r.op.toNat with
  | 0x0 => .packBool (argBit r.arg)
  | 0x1 => .unpackBool r.inLen.toNat r.inData
  | 0x2 => .packB3u r.inCtl r.arg
  | 0x3 => .unpackB3u r.inLen.toNat r.inData
  | 0x4 => .packU8 (argByte r.arg)
  | 0x5 => .unpackU8 r.inLen.toNat r.inData
  | 0x6 => .packU32 r.arg
  | 0x7 => .unpackU32 r.inLen.toNat r.inData
  | 0x8 => .packS32 (s32 r.arg)
  | 0x9 => .unpackS32 r.inLen.toNat r.inData
  | 0xA => .packF16 r.arg
  | 0xB => .unpackF16 r.inLen.toNat r.inData
  | 0xC => .chklen r.inLen.toNat (argLength lenW r.arg)
  | 0xD => .reservedD
  | 0xE => .reservedE
  | _ => .reservedF

/-- Why a byte sequence is no request (log 3). -/
inductive DecodeReject where
  /-- The packed form of a request has a fixed number of bytes (R64: no variable-length request form exists). -/
  | wrongByteCount (got : Nat)
  /-- A bit above the last field of the packed form is not 0 (log 3). -/
  | nonzeroPadding
deriving DecidableEq, Repr

/-- The number of bits of a request's fields: 4 + 1 + 32 + LEN_W + 40 (R53). -/
def requestBits (lenW : Nat) : Nat := 77 + lenW

/-- The number of bytes of a request's packed form (log 3); 11 for this hardware. -/
def requestBytes (lenW : Nat) : Nat := (requestBits lenW + 7) / 8

/-- The fields of a packed request (log 3): from bit 0 up `op`, `in_ctl`, `arg`, `in_len`, `in_data[0]` .. `in_data[4]`. -/
def requestOfNat (lenW w : Nat) : Request lenW where
  op := BitVec.ofNat 4 w
  inCtl := w.testBit 4
  arg := BitVec.ofNat 32 (w >>> 5)
  inLen := BitVec.ofNat lenW (w >>> 37)
  inData :=
    { d0 := BitVec.ofNat 8 (w >>> (37 + lenW))
      d1 := BitVec.ofNat 8 (w >>> (45 + lenW))
      d2 := BitVec.ofNat 8 (w >>> (53 + lenW))
      d3 := BitVec.ofNat 8 (w >>> (61 + lenW))
      d4 := BitVec.ofNat 8 (w >>> (69 + lenW)) }

/-- A request as one number (log 3), the inverse of `requestOfNat`. -/
def natOfRequest {lenW : Nat} (r : Request lenW) : Nat :=
  r.op.toNat + 2 ^ 4 * (r.inCtl.toNat + 2 * (r.arg.toNat + 2 ^ 32 * (r.inLen.toNat + 2 ^ lenW *
    (r.inData.d0.toNat + 2 ^ 8 * (r.inData.d1.toNat + 2 ^ 8 * (r.inData.d2.toNat + 2 ^ 8 *
      (r.inData.d3.toNat + 2 ^ 8 * r.inData.d4.toNat)))))))

/-- The `count` low bytes of a number, the least significant first. -/
def bytesOfNat (count w : Nat) : List Byte :=
  match count with
  | 0 => []
  | k + 1 => BitVec.ofNat 8 w :: bytesOfNat k (w / 256)

/-- The number whose bytes these are, the least significant first. -/
def natOfBytes : List Byte → Nat
  | [] => 0
  | b :: bs => b.toNat + 256 * natOfBytes bs

/-- The request in a byte sequence; anything else is rejected by name. -/
def requestOfBytes (lenW : Nat) (bs : List Byte) : Except DecodeReject (Request lenW) :=
  if bs.length ≠ requestBytes lenW then .error (.wrongByteCount bs.length)
  else if 2 ^ requestBits lenW ≤ natOfBytes bs then .error .nonzeroPadding
  else .ok (requestOfNat lenW (natOfBytes bs))

/-- The decoder on bytes: total on any byte sequence. -/
def decodeBytes (lenW : Nat) (bs : List Byte) : Except DecodeReject Instr :=
  match requestOfBytes lenW bs with
  | .ok r => .ok (decode r)
  | .error e => .error e

/-- The op code of an instruction (R55). -/
def opcode : Instr → BitVec 4
  | .packBool _ => 0x0
  | .unpackBool _ _ => 0x1
  | .packB3u _ _ => 0x2
  | .unpackB3u _ _ => 0x3
  | .packU8 _ => 0x4
  | .unpackU8 _ _ => 0x5
  | .packU32 _ => 0x6
  | .unpackU32 _ _ => 0x7
  | .packS32 _ => 0x8
  | .unpackS32 _ _ => 0x9
  | .packF16 _ => 0xA
  | .unpackF16 _ _ => 0xB
  | .chklen _ _ => 0xC
  | .reservedD => 0xD
  | .reservedE => 0xE
  | .reservedF => 0xF

/-- The layout an operation works on; the validator and the reserved codes have none (R54, R55). -/
def layoutOf : Instr → Option Layout
  | .packBool _ => some .boolean
  | .unpackBool _ _ => some .boolean
  | .packB3u _ _ => some .bool3
  | .unpackB3u _ _ => some .bool3
  | .packU8 _ => some .unsigned8
  | .unpackU8 _ _ => some .unsigned8
  | .packU32 _ => some .unsigned32
  | .unpackU32 _ _ => some .unsigned32
  | .packS32 _ => some .signed32
  | .unpackS32 _ _ => some .signed32
  | .packF16 _ => some .float16
  | .unpackF16 _ _ => some .float16
  | .chklen _ _ => none
  | .reservedD => none
  | .reservedE => none
  | .reservedF => none

/-- `op` is a pack: even and at most 0xA (R54). -/
def isPackOp (op : BitVec 4) : Bool := decide (op.toNat < 0xC) && !op.getLsbD 0

/-- `op` is an unpack: odd and at most 0xB (R54). -/
def isUnpackOp (op : BitVec 4) : Bool := decide (op.toNat < 0xC) && op.getLsbD 0

/-- The unpack of a layout, of the presented length and lanes (R55). -/
def unpackInstr (l : Layout) (n : Nat) (d : Lanes) : Instr :=
  match l with
  | .boolean => .unpackBool n d
  | .bool3 => .unpackB3u n d
  | .unsigned8 => .unpackU8 n d
  | .unsigned32 => .unpackU32 n d
  | .signed32 => .unpackS32 n d
  | .float16 => .unpackF16 n d

/-- A request with this op and every other field 0. -/
def blankRequest (lenW : Nat) (op : BitVec 4) : Request lenW :=
  { op := op, inCtl := false, arg := 0, inLen := 0, inData := Lanes.zero }

/-- The request of an unpack: presented length and lanes (R56). -/
def unpackRequest (lenW : Nat) (op : BitVec 4) (n : Nat) (d : Lanes) : Request lenW :=
  { blankRequest lenW op with inLen := BitVec.ofNat lenW n, inData := d }

/-- The encoder: the request that carries an instruction, every field the operation does not read 0 (R53, log 10). -/
def encode (lenW : Nat) (i : Instr) : Request lenW :=
  match i with
  | .packBool b => { blankRequest lenW 0x0 with arg := zextBit b }
  | .unpackBool n d => unpackRequest lenW 0x1 n d
  | .packB3u control value => { blankRequest lenW 0x2 with inCtl := control, arg := value }
  | .unpackB3u n d => unpackRequest lenW 0x3 n d
  | .packU8 v => { blankRequest lenW 0x4 with arg := zext32 8 v }
  | .unpackU8 n d => unpackRequest lenW 0x5 n d
  | .packU32 w => { blankRequest lenW 0x6 with arg := w }
  | .unpackU32 n d => unpackRequest lenW 0x7 n d
  | .packS32 v => { blankRequest lenW 0x8 with arg := u32 v }
  | .unpackS32 n d => unpackRequest lenW 0x9 n d
  | .packF16 x => { blankRequest lenW 0xA with arg := x }
  | .unpackF16 n d => unpackRequest lenW 0xB n d
  | .chklen n expected =>
    { blankRequest lenW 0xC with inLen := BitVec.ofNat lenW n, arg := BitVec.ofNat 32 expected }
  | .reservedD => blankRequest lenW 0xD
  | .reservedE => blankRequest lenW 0xE
  | .reservedF => blankRequest lenW 0xF

/-- The encoder to bytes (log 3). -/
def encodeBytes (lenW : Nat) (i : Instr) : List Byte :=
  bytesOfNat (requestBytes lenW) (natOfRequest (encode lenW i))

/-- The fields an op reads, every other field 0 (R56; an unpack's lanes at or beyond its layout's length are not
read, R57). -/
def readFields {lenW : Nat} (r : Request lenW) : Request lenW :=
  let d := r.inData
  match r.op.toNat with
  | 0x0 => { blankRequest lenW r.op with arg := r.arg &&& 1 }
  | 0x1 => unpackRequest lenW r.op r.inLen.toNat { Lanes.zero with d0 := d.d0 }
  | 0x2 => { blankRequest lenW r.op with inCtl := r.inCtl, arg := r.arg &&& 7 }
  | 0x3 => unpackRequest lenW r.op r.inLen.toNat { Lanes.zero with d0 := d.d0 }
  | 0x4 => { blankRequest lenW r.op with arg := r.arg &&& 0xFF }
  | 0x5 => unpackRequest lenW r.op r.inLen.toNat { Lanes.zero with d0 := d.d0, d1 := d.d1 }
  | 0x6 => { blankRequest lenW r.op with arg := r.arg }
  | 0x7 => unpackRequest lenW r.op r.inLen.toNat d
  | 0x8 => { blankRequest lenW r.op with arg := r.arg }
  | 0x9 => unpackRequest lenW r.op r.inLen.toNat d
  | 0xA => { blankRequest lenW r.op with arg := r.arg }
  | 0xB => unpackRequest lenW r.op r.inLen.toNat { Lanes.zero with d0 := d.d0, d1 := d.d1, d2 := d.d2 }
  | 0xC => { blankRequest lenW r.op with inLen := r.inLen, arg := BitVec.ofNat 32 (argLength lenW r.arg) }
  | _ => blankRequest lenW r.op

/-- The instruction the decoder reads from an instruction whose bits are `w`, the bits above `nbits` 0: the packed
bytes of the request are laid out and given to `decodeBytes`. -/
def decodeTableWord (nbits w : Nat) : Option Instr :=
  match decodeBytes Config.lenW (bytesOfNat (requestBytes Config.lenW) (w % 2 ^ nbits)) with
  | .ok i => some i
  | .error _ => none

end Sys2Proof
end

