-- ==== Sys2Proof/Machine/State.lean ====
section
/-! DEFINITION. The state of the block: the response registers (R22) and whether a reset edge has come since power-up
(R162), the same for all parameters; and what the host drives on the request port at the coming edges (log 1). -/

namespace Sys2Proof.Machine

/-- What the request port of a block with `LEN_W = lenW` carries at one rising edge of `clk` (R51). -/
structure EdgeOf (lenW : Nat) where
  rst : Bool
  reqValid : Bool
  req : Request lenW
deriving DecidableEq, Repr

/-- An edge at the port of this hardware. -/
abbrev Edge := EdgeOf Config.lenW

/-- The reasons a read of the outputs stops with a fault. No step faults (R145). -/
inductive Fault where
  /-- Raised by `State.readOutputs` before the first reset edge after power-up, when the registers hold no value
  (R162, I14). Safe: the model stops where the chip drives some unspecified value. -/
  | readBeforeReset
deriving DecidableEq, Repr

/-- The reasons the model gives no meaning. No meaning and no step refuses. -/
inductive Refusal where
  /-- Only for an arm of `exec` without a meaning; no arm uses it. Safe: the model stops. -/
  | notModelled (mnemonic : String)
  /-- Raised by `State.readOutputs` in a state with `RSP_STATUS = 3`, which no step produces (R24, R141, I12). Safe:
  the model stops in a state the chip does not reach. -/
  | statusNeverProduced
  /-- Raised by `State.readOutputs` in a state with `RSP_LEN` outside 0, 1, 2, 3, 5, which no step produces (R24, I13).
  Safe: the model stops in a state the chip does not reach. -/
  | lengthNeverProduced
deriving DecidableEq, Repr

/-- The state of the block itself, whatever its parameters: "They are the block's only state" (R22). -/
structure Registers where
  /-- `RSP_VALID` (R22): 1 in the cycle after an accepted request. -/
  rspValid : Bool
  /-- `RSP_STATUS` (R22, R141): the completion code. -/
  rspStatus : BitVec 2
  /-- `RSP_LEN` (R22): the length of the frame in `RSP_DATA`. -/
  rspLen : BitVec 3
  /-- `RSP_DATA[0..4]` (R22): the output frame lanes. -/
  rspData : Lanes
  /-- `RSP_VAL` (R22): the decoded value of an unpack. -/
  rspVal : Word
  /-- `RSP_CTL` (R22): the decoded control bit of UNPACK.B3U. -/
  rspCtl : Bool
  /-- A reset edge has come since power-up, so that the registers hold values (R162). -/
  resetSeen : Bool
deriving DecidableEq, Repr

/-- The state of the machine: the block's registers, and what its host drives. -/
structure State extends Registers where
  /-- The model's own: the request port at the coming edges, next first; empty means no request (log 1, log 2). -/
  edges : List Edge
deriving DecidableEq, Repr

/-- The block right after a reset edge (R162), with no request to come (log 2). -/
def State.reset : State where
  rspValid := false
  rspStatus := 0
  rspLen := 0
  rspData := Lanes.zero
  rspVal := 0
  rspCtl := false
  resetSeen := true
  edges := []

/-- The block at power-up, before the first reset edge, with the host's edges to come: every register is unspecified
(R162, log 5). -/
def State.powerUp (edges : List Edge) : State where
  rspValid := Config.powerUpValid
  rspStatus := Config.powerUpStatus
  rspLen := Config.powerUpLen
  rspData := Config.powerUpData
  rspVal := Config.powerUpVal
  rspCtl := Config.powerUpCtl
  resetSeen := false
  edges := edges

end Sys2Proof.Machine
end

