-- ==== Sys2Proof/Machine/Flags.lean ====
section
/-! DEFINITION. The completion codes of `RSP_STATUS` (R141), the block's only flags (R26), and the two error kinds. -/

namespace Sys2Proof.Machine

/-- Code 0 (R141). -/
def statusOk : BitVec 2 := 0

/-- Code 1 (R141). -/
def statusInvalidLength : BitVec 2 := 1

/-- Code 2 (R141). -/
def statusIllegalOp : BitVec 2 := 2

/-- What an operation may raise: "an explicit result/error type ... rather than a thrown exception" (R145). -/
inductive Raise where
  /-- The source's single error kind (R143). -/
  | invalidLength
  /-- The shell's own, for a reserved op code (R144). -/
  | illegalOp
deriving DecidableEq, Repr

/-- The completion code of an error (R141). -/
def statusOf : Raise → BitVec 2
  | .invalidLength => statusInvalidLength
  | .illegalOp => statusIllegalOp

end Sys2Proof.Machine
end

