-- ==== Sys2Proof/Machine/Ops.lean ====
section
/-! DEFINITION. The operations every meaning is built from: response tuples (R60), the length check (R76), the three
kinds of edge (R23), completing with an error (R14, R142: the block's only "exception", which is no trap, R145, R148),
and what the host does at the ports (R52, R79, R166). -/

namespace Sys2Proof.Machine

/-- A wire frame: its bytes in wire order (R11, R16). -/
abbrev Frame := List Byte

/-- What `resp` returns: `(status, rlen, rdata[0..4], rval, rctl)` (R60). -/
structure Response where
  status : BitVec 2
  len : BitVec 3
  data : Lanes
  val : Word
  ctl : Bool
deriving DecidableEq, Repr

/-- `lanes(f)[i] = f[i] if i < len(f) else 0x00` (R60). -/
def lanesOfFrame (f : Frame) : Lanes :=
  { d0 := f.getD 0 0, d1 := f.getD 1 0, d2 := f.getD 2 0, d3 := f.getD 3 0, d4 := f.getD 4 0 }

/-- `ok_frame(f)` (R60). -/
def okFrame (f : Frame) : Response :=
  { status := statusOk, len := BitVec.ofNat 3 f.length, data := lanesOfFrame f, val := 0, ctl := false }

/-- `ok_value(v, c)` (R60). -/
def okValue (v : Word) (c : Bool) : Response :=
  { status := statusOk, len := 0, data := Lanes.zero, val := v, ctl := c }

/-- `err(s)` (R60), the error outputs of R142. -/
def errResponse (x : Raise) : Response :=
  { status := statusOf x, len := 0, data := Lanes.zero, val := 0, ctl := false }

/-- `raise` becomes `err(...)`, a result stays (R61). -/
def responseOf (r : Except Raise Response) : Response :=
  match r with
  | .ok r => r
  | .error x => errResponse x

/-- `lencheck(n, N)`: succeeds exactly when the lengths are equal; it reads no frame byte (R76). -/
def lencheck (n expected : Nat) : Except Raise Unit :=
  if n = expected then .ok () else .error .invalidLength

/-- The accepted edge: all response registers are loaded together and `RSP_VALID` is 1 (R23, R44). -/
def Registers.accept (g : Registers) (r : Response) : Registers :=
  { g with
    rspValid := true
    rspStatus := r.status
    rspLen := r.len
    rspData := r.data
    rspVal := r.val
    rspCtl := r.ctl }

/-- The idle edge, `req_valid = 0` and `rst = 0`: `RSP_VALID` drops, every other register holds (R23, R165). -/
def Registers.idle (g : Registers) : Registers := { g with rspValid := false }

/-- The registers after a reset edge, whatever they held and whatever request is presented (R23, R161, R162). -/
def Registers.afterReset : Registers where
  rspValid := false
  rspStatus := 0
  rspLen := 0
  rspData := Lanes.zero
  rspVal := 0
  rspCtl := false
  resetSeen := true

/-- The accepted edge on the machine's state. -/
def State.accept (s : State) (r : Response) : State := { s with toRegisters := s.toRegisters.accept r }

/-- Completing with an error: `raise` loads the error outputs and changes no control flow (R14, R142, R145). -/
def State.raise (s : State) (x : Raise) : State := s.accept (errResponse x)

/-- Completing a request with its result, or with the error it raised (R61). -/
def State.complete (s : State) (r : Except Raise Response) : State :=
  match r with
  | .ok r => s.accept r
  | .error x => s.raise x

/-- The idle edge on the machine's state. -/
def State.idle (s : State) : State := { s with toRegisters := s.toRegisters.idle }

/-- The reset edge on the machine's state. -/
def State.resetEdge (s : State) : State := { s with toRegisters := Registers.afterReset }

/-- An edge with no request and no reset (`IDLE`, R65), at a port of any width. -/
def EdgeOf.idle (lenW : Nat) : EdgeOf lenW := { rst := false, reqValid := false, req := blankRequest lenW 0 }

/-- An edge with no request and no reset (`IDLE`, R65). -/
def Edge.idle : Edge := EdgeOf.idle Config.lenW

/-- An edge with `rst = 1` and no request (`RESET`, R65). -/
def Edge.reset : Edge := { rst := true, reqValid := false, req := blankRequest Config.lenW 0 }

/-- An edge that presents a request (R51). -/
def Edge.request (r : Request Config.lenW) : Edge := { rst := false, reqValid := true, req := r }

/-- What a block samples next from its host's edges; none listed means that no request is presented (log 2). -/
def nextEdge (lenW : Nat) (edges : List (EdgeOf lenW)) : EdgeOf lenW :=
  match edges with
  | [] => EdgeOf.idle lenW
  | e :: _ => e

/-- What the block samples at the next rising edge. -/
def State.sampled (s : State) : Edge := nextEdge Config.lenW s.edges

/-- The state with the sampled edge gone: inputs "are sampled at each rising edge and not kept" (R32). -/
def State.pastEdge (s : State) : State := { s with edges := s.edges.tail }

/-- The outputs of the response port (R52). -/
structure Outputs where
  valid : Bool
  status : BitVec 2
  len : BitVec 3
  data : Lanes
  val : Word
  ctl : Bool
deriving DecidableEq, Repr

/-- The frame lengths `RSP_LEN` may hold (R22, R24). -/
def legalLength (len : BitVec 3) : Bool :=
  len == 0 || len == 1 || len == 2 || len == 3 || len == 5

/-- The host's read of the outputs, which are driven directly from the response registers (R52). Before the first reset
edge they hold no value and the read faults (R162, I14); a state with a status or a length that is never produced is
refused (I12, I13). -/
def Registers.readOutputs (s : Registers) : Host.Outcome Outputs Fault Refusal :=
  if s.resetSeen = false then .fault .readBeforeReset
  else if s.rspStatus = 3 then .refused .statusNeverProduced
  else if legalLength s.rspLen = false then .refused .lengthNeverProduced
  else .next
    { valid := s.rspValid
      status := s.rspStatus
      len := s.rspLen
      data := s.rspData
      val := s.rspVal
      ctl := s.rspCtl }

/-- The host's read of the outputs of the machine's block. -/
def State.readOutputs (s : State) : Host.Outcome Outputs Fault Refusal := s.toRegisters.readOutputs

/-- The length the host presents for a frame of `len` bytes: the true one, or the largest the field holds
(R79, R166). -/
def presentLen (lenW len : Nat) : Nat := min len (2 ^ lenW - 1)

end Sys2Proof.Machine
end

