-- ==== Sys2Proof/Machine/FixedWidth.lean ====
section
/-! DEFINITION. The fixed-width primitives (R86 to R100): `pack_*` and `unpack_*` as pure functions, and the meanings
of the ten operations. -/

namespace Sys2Proof.Machine

/-- `pack_bool(b) = [0x01] if b else [0x00]` (R87). -/
def packBool (b : Bool) : Frame := [if b then 0x01 else 0x00]

/-- `unpack_bool(n, d)`: bit 0 of the byte; bits 7..1 are ignored (R88, R63). -/
def unpackBool (n : Nat) (d : Lanes) : Except Raise Bool := do
  lencheck n (frameLen .boolean)
  return d.d0 &&& 0x01 == 0x01

/-- `pack_b3u(control, value)`: bit 3 = control, bits 2..0 = `value & 0b111`, bits 7..4 = 0 (R89). -/
def packB3u (control : Bool) (value : Word) : Frame :=
  [(if control then 0x08 else 0x00) ||| (value &&& 0b111).setWidth 8]

/-- `unpack_b3u(n, d)`: control = bit 3, value = bits 2..0; bits 7..4 are ignored (R90, R63). -/
def unpackB3u (n : Nat) (d : Lanes) : Except Raise (Bool × BitVec 3) := do
  lencheck n (frameLen .bool3)
  return (d.d0.getLsbD 3, d.d0.extractLsb' 0 3)

/-- `pack_u8(i) = [0x00, i]` (R91). -/
def packU8 (i : Byte) : Frame := [0x00, i]

/-- `unpack_u8(n, d)`: byte 1; the header is ignored (R92, R97). -/
def unpackU8 (n : Nat) (d : Lanes) : Except Raise Byte := do
  lencheck n (frameLen .unsigned8)
  return d.d1

/-- `pack_u32(w)`: header 0, then the four bytes in big-endian order (R93, R37). -/
def packU32 (w : Word) : Frame := [0x00, wordByte w 1, wordByte w 2, wordByte w 3, wordByte w 4]

/-- `unpack_u32(n, d)`: the word of lanes 1..4; the header is ignored (R94, R97). -/
def unpackU32 (n : Nat) (d : Lanes) : Except Raise Word := do
  lencheck n (frameLen .unsigned32)
  return wordOfLanes d

/-- `pack_s32(i) = pack_u32(u32(i))` (R95). -/
def packS32 (i : Int) : Frame := packU32 (u32 i)

/-- `unpack_s32(n, d)`: the same word read as two's complement (R96). -/
def unpackS32 (n : Nat) (d : Lanes) : Except Raise Int := do
  lencheck n (frameLen .signed32)
  return s32 (wordOfLanes d)

/-- `PACK.BOOL` (R87). -/
def execPackBool (b : Bool) (s : State) : Host.Outcome State Fault Refusal :=
  .next (s.accept (okFrame (packBool b)))

/-- `UNPACK.BOOL` (R88). -/
def execUnpackBool (n : Nat) (d : Lanes) (s : State) : Host.Outcome State Fault Refusal :=
  .next (s.complete (do let b ← unpackBool n d; return okValue (zextBit b) false))

/-- `PACK.B3U` (R89). -/
def execPackB3u (control : Bool) (value : Word) (s : State) : Host.Outcome State Fault Refusal :=
  .next (s.accept (okFrame (packB3u control value)))

/-- `UNPACK.B3U` (R90). -/
def execUnpackB3u (n : Nat) (d : Lanes) (s : State) : Host.Outcome State Fault Refusal :=
  .next (s.complete (do let cv ← unpackB3u n d; return okValue (zext32 3 cv.2) cv.1))

/-- `PACK.U8` (R91). -/
def execPackU8 (i : Byte) (s : State) : Host.Outcome State Fault Refusal :=
  .next (s.accept (okFrame (packU8 i)))

/-- `UNPACK.U8` (R92). -/
def execUnpackU8 (n : Nat) (d : Lanes) (s : State) : Host.Outcome State Fault Refusal :=
  .next (s.complete (do let v ← unpackU8 n d; return okValue (zext32 8 v) false))

/-- `PACK.U32` (R93). -/
def execPackU32 (w : Word) (s : State) : Host.Outcome State Fault Refusal :=
  .next (s.accept (okFrame (packU32 w)))

/-- `UNPACK.U32` (R94). -/
def execUnpackU32 (n : Nat) (d : Lanes) (s : State) : Host.Outcome State Fault Refusal :=
  .next (s.complete (do let w ← unpackU32 n d; return okValue w false))

/-- `PACK.S32` (R95). -/
def execPackS32 (i : Int) (s : State) : Host.Outcome State Fault Refusal :=
  .next (s.accept (okFrame (packS32 i)))

/-- `UNPACK.S32` (R96): `RSP_VAL = u32(i)`. -/
def execUnpackS32 (n : Nat) (d : Lanes) (s : State) : Host.Outcome State Fault Refusal :=
  .next (s.complete (do let i ← unpackS32 n d; return okValue (u32 i) false))

end Sys2Proof.Machine
end

