-- ==== Sys2Proof/Machine/Binary32.lean ====
section
/-! DEFINITION. The numeric primitives of rule R13 and the binary32 format of rule R9. -/

namespace Sys2Proof.Machine

/-- `trunc(q)`: the integer nearest `q` in the direction of zero (R13). -/
def trunc (q : ℚ) : Int := if 0 ≤ q then ⌊q⌋ else ⌈q⌉

/-- `tdiv2(m) = trunc(m / 2)`: halving with truncation toward zero (R13). -/
def tdiv2 (m : Int) : Int := Int.tdiv m 2

/-- The biased exponent field, bits 30:23 (R9). -/
def expField (w : Word) : Nat := (w.extractLsb' 23 8).toNat

/-- The fraction field, bits 22:0 (R9). -/
def fracField (w : Word) : Nat := (w.extractLsb' 0 23).toNat

/-- `arg[30:23] = 0xFF and arg[22:0] != 0` (R118). -/
def isNaN (w : Word) : Bool := expField w == 0xFF && fracField w != 0

/-- Neither infinity nor NaN (R9). -/
def isFinite (w : Word) : Bool := expField w != 0xFF

/-- The significand as an integer: the fraction, with the implicit 1 in bit 23 unless the word is subnormal or zero
(R9). -/
def significand (w : Word) : Nat := if expField w = 0 then fracField w else fracField w + 2 ^ 23

/-- The exponent of the significand's last place: the field less 150, and -149 for subnormals (R9). -/
def lastPlace (w : Word) : Int := max 1 (expField w : Int) - 150

/-- `val32(w)`: the real value of a finite binary32 word; the value of `-0.0` is 0 (R13). Not used on words that are
not finite (log 9). -/
def val32 (w : Word) : ℚ :=
  (if w.getLsbD 31 then -1 else 1) * (significand w : ℚ) * 2 ^ lastPlace w

/-- A nonnegative rational rounded to an integer, ties to even. -/
def roundHalfEven (q : ℚ) : Nat :=
  let n := ⌊q⌋.toNat
  let r := q - n
  if r < 1 / 2 then n else if 1 / 2 < r then n + 1 else n + n % 2

/-- The exponent of the last place of the binary32 words around `q > 0`: 23 below that of its leading bit, and never
below -149 (subnormal results are kept, R13). -/
def placeOf (q : ℚ) : Int := max (Int.log 2 q - 23) (-149)

/-- Bits 30:0 of the binary32 word nearest `q > 0`, ties to even: the significand in units of the last place, added to
the exponent field so that a carry out of the significand raises the exponent. A value beyond the finite range gives
the bits of infinity (log 7). -/
def roundMagnitude (q : ℚ) : Nat :=
  min ((placeOf q + 149).toNat * 2 ^ 23 + roundHalfEven (q / 2 ^ placeOf q)) 0x7F800000

/-- `rne32(q)`: the binary32 word nearest `q`, ties to the word with an even fraction field, `+0.0` when `q = 0`
(R13). -/
def rne32 (q : ℚ) : Word :=
  if q = 0 then 0
  else if 0 < q then BitVec.ofNat 32 (roundMagnitude q)
  else BitVec.ofNat 32 (2 ^ 31 + roundMagnitude (-q))

/-- `fl32(q) = val32(rne32(q))` (R13). -/
def fl32 (q : ℚ) : ℚ := val32 (rne32 q)

end Sys2Proof.Machine
end

