-- ==== Sys2Proof/Machine/Float16.lean ====
section
/-! DEFINITION. The Float16 codec (R111 to R122, R128 to R130), in both values of `F16_ARITH`. -/

namespace Sys2Proof.Machine

/-- The real value of an encoding, `q(m, e) = m * 2^e / 100` (R111). -/
def f16Value (m : Int) (e : Nat) : ℚ := (m : ℚ) * 2 ^ e / 100

/-- `U = 67076096/100` (R112). -/
def upperBound : ℚ := 67076096 / 100

/-- `L = -67108864/100` (R112). -/
def lowerBound : ℚ := -67108864 / 100

/-- The upper bound of the clamp: `U`, or `U32 = val32(rne32(U))` (R112, R119). -/
def clampUpper : F16Arith → ℚ
  | .exact => upperBound
  | .binary32 => fl32 upperBound

/-- The lower bound of the clamp: `L`, or `L32 = val32(rne32(L))` (R112, R119). -/
def clampLower : F16Arith → ℚ
  | .exact => lowerBound
  | .binary32 => fl32 lowerBound

/-- `clampF(x)`: a value outside is saturated to the nearest bound (R112, R119). -/
def clampF (mode : F16Arith) (x : ℚ) : ℚ :=
  if clampUpper mode < x then clampUpper mode else if x < clampLower mode then clampLower mode else x

/-- `m0`, the provisional mantissa: `trunc(100 * xc)`, the product exact (R113) or rounded to binary32 (R119). -/
def provisional (mode : F16Arith) (x : ℚ) : Int :=
  match mode with
  | .exact => trunc (100 * clampF .exact x)
  | .binary32 => trunc (fl32 (100 * clampF .binary32 x))

/-- The mantissa field's range, `[-2048, 2047]` (R111, R114). -/
def inMantissaRange (m : Int) : Bool := decide (-2048 ≤ m) && decide (m ≤ 2047)

/-- The renormalisation loop (R114): while `m` is out of range, halve it and count. `fuel` bounds the number of
halvings; "at most 16 iterations" (R169, C5), and at most 15 happen (R115, log 8). -/
def renorm (fuel : Nat) (m : Int) (e : Nat) : Int × Nat :=
  match fuel with
  | 0 => (m, e)
  | k + 1 => if inMantissaRange m then (m, e) else renorm k (tdiv2 m) (e + 1)

/-- Bit packing (R117): the header 0, `{s, e[3:0], mant[10:8]}`, `mant[7:0]`. -/
def f16Frame (m : Int) (e : Nat) : Frame :=
  let s : BitVec 1 := if m < 0 then 1 else 0
  let mant : BitVec 11 := if m < 0 then BitVec.ofInt 11 (m + 2048) else BitVec.ofInt 11 m
  let expo : BitVec 4 := BitVec.ofNat 4 e
  [0x00, s ++ expo ++ mant.extractLsb' 8 3, mant.extractLsb' 0 8]

/-- Clamp, mantissa, renormalisation and packing of a real value (R112 to R117). -/
def packReal (mode : F16Arith) (x : ℚ) : Frame :=
  let me := renorm 16 (provisional mode x) 0
  f16Frame me.1 me.2

/-- The classes of input that PACK.F16 tells apart (R118). -/
inductive F16Input where
  | nan
  | posInf
  | negInf
  | finite (x : ℚ)
deriving DecidableEq, Repr

/-- The class of a binary32 word (R118, R9). -/
def classify (w : Word) : F16Input :=
  if isNaN w then .nan
  else if w = 0x7F800000 then .posInf
  else if w = 0xFF800000 then .negInf
  else .finite (val32 w)

/-- `pack_f16(arg)` (R118, R119): NaN gives `00 7F FF` (R128), an infinity is its bound (R129). -/
def packF16 (mode : F16Arith) (arg : Word) : Frame :=
  match classify arg with
  | .nan => [0x00, 0x7F, 0xFF]
  | .posInf => packReal mode (clampUpper mode)
  | .negInf => packReal mode (clampLower mode)
  | .finite x => packReal mode x

/-- The 11-bit mantissa field, `{d[1][2:0], d[2][7:0]}` (R120). -/
def f16MantField (d : Lanes) : BitVec 11 := d.d1.extractLsb' 0 3 ++ d.d2

/-- The signed mantissa: `mant - 2048` if `d[1][7] = 1`, else `mant` (R120). -/
def f16Mantissa (d : Lanes) : Int :=
  if d.d1.getLsbD 7 then ((f16MantField d).toNat : Int) - 2048 else ((f16MantField d).toNat : Int)

/-- The exponent field `d[1][6:3]` (R120). -/
def f16Exponent (d : Lanes) : Nat := (d.d1.extractLsb' 3 4).toNat

/-- The value of `(m, e)` rounded to binary32: correctly (R121), or in binary32 from left to right with 0.01 first
rounded (R122). -/
def decodeReal (mode : F16Arith) (m : Int) (e : Nat) : Word :=
  match mode with
  | .exact => rne32 (f16Value m e)
  | .binary32 => rne32 (fl32 (fl32 (1 / 100) * m) * 2 ^ e)

/-- `unpack_f16(n, d)` (R121, R122); the header is not read (R120). -/
def unpackF16 (mode : F16Arith) (n : Nat) (d : Lanes) : Except Raise Word := do
  lencheck n (frameLen .float16)
  return decodeReal mode (f16Mantissa d) (f16Exponent d)

/-- `PACK.F16` in a block built with either `F16_ARITH` (R118, R119). -/
def execPackF16In (mode : F16Arith) (x : Word) (s : State) : Host.Outcome State Fault Refusal :=
  .next (s.accept (okFrame (packF16 mode x)))

/-- `UNPACK.F16` in a block built with either `F16_ARITH` (R121, R122). -/
def execUnpackF16In (mode : F16Arith) (n : Nat) (d : Lanes) (s : State) : Host.Outcome State Fault Refusal :=
  .next (s.complete (do let w ← unpackF16 mode n d; return okValue w false))

/-- `PACK.F16` (R118). -/
def execPackF16 (x : Word) (s : State) : Host.Outcome State Fault Refusal := execPackF16In Config.f16Arith x s

/-- `UNPACK.F16` (R121). -/
def execUnpackF16 (n : Nat) (d : Lanes) (s : State) : Host.Outcome State Fault Refusal :=
  execUnpackF16In Config.f16Arith n d s

end Sys2Proof.Machine
end

