-- ==== Sys2Proof/Machine/LengthValidator.lean ====
section
/-! DEFINITION. CHKLEN, the validator on its own (R78). -/

namespace Sys2Proof.Machine

/-- `chklen(n, N)` (R78): the verdict of the length check, every other output 0. -/
def chklen (n expected : Nat) : Except Raise Response := do
  lencheck n expected
  return okValue 0 false

/-- `CHKLEN` (R78). -/
def execChklen (n expected : Nat) (s : State) : Host.Outcome State Fault Refusal :=
  .next (s.complete (chklen n expected))

end Sys2Proof.Machine
end

