-- ==== Sys2Proof/Machine/Reserved.lean ====
section
/-! DEFINITION. The reserved op codes 0xD, 0xE, 0xF complete with ILLEGAL_OP and no other effect (R62, R144). -/

namespace Sys2Proof.Machine

/-- `op = 0xD` (R62). -/
def execReservedD (s : State) : Host.Outcome State Fault Refusal := .next (s.raise .illegalOp)

/-- `op = 0xE` (R62). -/
def execReservedE (s : State) : Host.Outcome State Fault Refusal := .next (s.raise .illegalOp)

/-- `op = 0xF` (R62). -/
def execReservedF (s : State) : Host.Outcome State Fault Refusal := .next (s.raise .illegalOp)

end Sys2Proof.Machine
end

