-- ==== Sys2Proof/Machine/Dispatch.lean ====
section
/-! DEFINITION. One arm per constructor of Instr, each one direct call of its meaning. -/

namespace Sys2Proof.Machine

def exec (i : Instr) (s : State) : Host.Outcome State Fault Refusal :=
  match i with
  | .packBool b => Sys2Proof.Machine.execPackBool b s
  | .unpackBool n d => Sys2Proof.Machine.execUnpackBool n d s
  | .packB3u control value => Sys2Proof.Machine.execPackB3u control value s
  | .unpackB3u n d => Sys2Proof.Machine.execUnpackB3u n d s
  | .packU8 v => Sys2Proof.Machine.execPackU8 v s
  | .unpackU8 n d => Sys2Proof.Machine.execUnpackU8 n d s
  | .packU32 w => Sys2Proof.Machine.execPackU32 w s
  | .unpackU32 n d => Sys2Proof.Machine.execUnpackU32 n d s
  | .packS32 v => Sys2Proof.Machine.execPackS32 v s
  | .unpackS32 n d => Sys2Proof.Machine.execUnpackS32 n d s
  | .packF16 x => Sys2Proof.Machine.execPackF16 x s
  | .unpackF16 n d => Sys2Proof.Machine.execUnpackF16 n d s
  | .chklen n expected => Sys2Proof.Machine.execChklen n expected s
  | .reservedD => Sys2Proof.Machine.execReservedD s
  | .reservedE => Sys2Proof.Machine.execReservedE s
  | .reservedF => Sys2Proof.Machine.execReservedF s

end Sys2Proof.Machine
end

