-- ==== Sys2Proof/Machine/Step.lean ====
section
/-! DEFINITION. One step: one rising edge of `clk` (R23). -/

namespace Sys2Proof.Machine

/-- The update rule at a rising edge (R23): `rst` wins (R161); an accepted request is decoded and executed; otherwise
the edge is idle (R165). -/
def step (s : State) : Host.Outcome State Fault Refusal :=
  if s.sampled.rst then .next s.pastEdge.resetEdge
  else if s.sampled.reqValid then exec (decode s.sampled.req) s.pastEdge
  else .next s.pastEdge.idle

/-- The state in which the host presents, at the next edge, the request whose bits are `w` (the bits above `nbits` 0)
with `req_valid = 1` and `rst = 0`; what it drives at later edges stands (log 4). -/
def State.withFetchWord (s : State) (nbits w : Nat) : State :=
  { s with edges := Edge.request (requestOfNat Config.lenW (w % 2 ^ nbits)) :: s.edges.tail }

end Sys2Proof.Machine
end

