-- ==== Sys2Proof/Machine/Assembly.lean ====
section
/-! DEFINITION. The text forms of a request (R65): the serialised form `op:in_ctl:arg:in_len:in_data[0..4]` and one
line of assembly. Text is a list of characters. What R65 leaves open of the grammar is log 12. -/

namespace Sys2Proof.Machine

/-- Why a text is no request. -/
inductive AsmReject where
  /-- A line with no token. -/
  | emptyLine
  /-- No such mnemonic in the op map (R55). -/
  | unknownMnemonic
  /-- A token that is none of the fields of R65. -/
  | unknownField
  /-- A number, a digit or a separator does not read as R65 writes it. -/
  | badNumber
  /-- The value does not fit the field it is written to. -/
  | outOfRange
  /-- More than five frame bytes: there are five lanes (R51). -/
  | tooManyBytes
  /-- The frame length does not fit `in_len`; it is never wrapped (R79, I15). -/
  | lengthNotPresentable
deriving DecidableEq, Repr

/-- The hexadecimal digits that R65's serialised form is written in, each at the place of its value. -/
def hexAlphabet : List Char := "0123456789ABCDEF".toList

/-- The place of a character in an alphabet, which is its value as a digit. -/
def placeIn (c : Char) (alphabet : List Char) : Option Nat :=
  match alphabet with
  | [] => none
  | a :: rest => if a = c then some 0 else (placeIn c rest).map Nat.succ

/-- The value of a hexadecimal digit; a small letter reads as its capital (log 12). -/
def hexValue (c : Char) : Option Nat := placeIn c.toUpper hexAlphabet

/-- The value of a decimal digit. -/
def decValue (c : Char) : Option Nat := placeIn c (hexAlphabet.take 10)

/-- The number that a sequence of digits writes in a base, after the digits already read. -/
def digitsValue (value : Char → Option Nat) (base : Nat) (acc : Nat) : List Char → Option Nat
  | [] => some acc
  | c :: cs =>
    match value c with
    | some v => digitsValue value base (acc * base + v) cs
    | none => none

/-- A nonempty number in a base. -/
def numberValue (value : Char → Option Nat) (base : Nat) (cs : List Char) : Except AsmReject Nat :=
  match cs with
  | [] => .error .badNumber
  | _ =>
    match digitsValue value base 0 cs with
    | some v => .ok v
    | none => .error .badNumber

/-- The character of a hexadecimal digit, capitals. -/
def hexChar (n : Nat) : Char := hexAlphabet.getD n '0'

/-- The low `count` hexadecimal digits of a number, the most significant first. -/
def hexDigits (count n : Nat) : List Char :=
  match count with
  | 0 => []
  | k + 1 => hexDigits k (n / 16) ++ [hexChar (n % 16)]

/-- The number of hexadecimal digits that the `in_len` field takes. -/
def lengthDigits (lenW : Nat) : Nat := (lenW + 3) / 4

/-- A request in the serialised form `op:in_ctl:arg:in_len:in_data[0..4]`, in hex (R53, R65). -/
def serialise {lenW : Nat} (r : Request lenW) : List Char :=
  hexDigits 1 r.op.toNat ++ ':' :: hexDigits 1 r.inCtl.toNat ++ ':' :: hexDigits 8 r.arg.toNat ++
    ':' :: hexDigits (lengthDigits lenW) r.inLen.toNat ++ ':' :: (hexDigits 2 r.inData.d0.toNat ++
    hexDigits 2 r.inData.d1.toNat ++ hexDigits 2 r.inData.d2.toNat ++ hexDigits 2 r.inData.d3.toNat ++
    hexDigits 2 r.inData.d4.toNat)

/-- Exactly `count` hexadecimal digits and what follows them. -/
def takeHex (count : Nat) (cs : List Char) : Except AsmReject (Nat × List Char) :=
  if cs.length < count then .error .badNumber
  else
    match digitsValue hexValue 16 0 (cs.take count) with
    | some v => .ok (v, cs.drop count)
    | none => .error .badNumber

/-- The separator of the serialised form. -/
def takeColon (cs : List Char) : Except AsmReject (List Char) :=
  match cs with
  | ':' :: rest => .ok rest
  | _ => .error .badNumber

/-- The request that a serialised text writes (R65). -/
def parseSerial (lenW : Nat) (cs : List Char) : Except AsmReject (Request lenW) := do
  let (op, cs) ← takeHex 1 cs
  let cs ← takeColon cs
  let (ctl, cs) ← takeHex 1 cs
  let cs ← takeColon cs
  let (arg, cs) ← takeHex 8 cs
  let cs ← takeColon cs
  let (len, cs) ← takeHex (lengthDigits lenW) cs
  let cs ← takeColon cs
  let (b0, cs) ← takeHex 2 cs
  let (b1, cs) ← takeHex 2 cs
  let (b2, cs) ← takeHex 2 cs
  let (b3, cs) ← takeHex 2 cs
  let (b4, cs) ← takeHex 2 cs
  if cs ≠ [] then .error .badNumber
  else if 1 < ctl then .error .outOfRange
  else if 2 ^ lenW ≤ len then .error .lengthNotPresentable
  else
    return { op := BitVec.ofNat 4 op
             inCtl := ctl == 1
             arg := BitVec.ofNat 32 arg
             inLen := BitVec.ofNat lenW len
             inData := ⟨BitVec.ofNat 8 b0, BitVec.ofNat 8 b1, BitVec.ofNat 8 b2, BitVec.ofNat 8 b3,
               BitVec.ofNat 8 b4⟩ }

/-- A text cut at every occurrence of a character. -/
def splitAtChar (c : Char) : List Char → List (List Char)
  | [] => [[]]
  | x :: xs =>
    if x = c then [] :: splitAtChar c xs
    else
      match splitAtChar c xs with
      | [] => [[x]]
      | t :: ts => (x :: t) :: ts

/-- What follows a prefix. -/
def afterPrefix (pre cs : List Char) : Option (List Char) :=
  match pre, cs with
  | [], rest => some rest
  | _ :: _, [] => none
  | p :: ps, c :: rest => if p = c then afterPrefix ps rest else none

/-- A signed decimal integer (R65). -/
def decimalInteger (cs : List Char) : Except AsmReject Int :=
  match cs with
  | '-' :: rest => do let n ← numberValue decValue 10 rest; return -(n : Int)
  | _ => do let n ← numberValue decValue 10 cs; return (n : Int)

/-- An unsigned decimal real, with or without a fraction. -/
def unsignedReal (cs : List Char) : Except AsmReject ℚ :=
  match splitAtChar '.' cs with
  | [whole] => do let n ← numberValue decValue 10 whole; return (n : ℚ)
  | [whole, frac] => do
    let n ← numberValue decValue 10 whole
    let f ← numberValue decValue 10 frac
    return (n : ℚ) + (f : ℚ) / 10 ^ frac.length
  | _ => .error .badNumber

/-- A signed decimal real, as in `f:-0.01` (R65). -/
def decimalReal (cs : List Char) : Except AsmReject ℚ :=
  match cs with
  | '-' :: rest => do let q ← unsignedReal rest; return -q
  | _ => unsignedReal cs

/-- The mnemonics of the op map (R55), the reserved codes under the names of opcode_table.json. -/
def mnemonicOp (cs : List Char) : Option (BitVec 4) :=
  if cs = "PACK.BOOL".toList then some 0x0
  else if cs = "UNPACK.BOOL".toList then some 0x1
  else if cs = "PACK.B3U".toList then some 0x2
  else if cs = "UNPACK.B3U".toList then some 0x3
  else if cs = "PACK.U8".toList then some 0x4
  else if cs = "UNPACK.U8".toList then some 0x5
  else if cs = "PACK.U32".toList then some 0x6
  else if cs = "UNPACK.U32".toList then some 0x7
  else if cs = "PACK.S32".toList then some 0x8
  else if cs = "UNPACK.S32".toList then some 0x9
  else if cs = "PACK.F16".toList then some 0xA
  else if cs = "UNPACK.F16".toList then some 0xB
  else if cs = "CHKLEN".toList then some 0xC
  else if cs = "RESERVED_0xD".toList then some 0xD
  else if cs = "RESERVED_0xE".toList then some 0xE
  else if cs = "RESERVED_0xF".toList then some 0xF
  else none

/-- `arg=`: a hex word, a decimal integer, or for PACK.F16 `f:<decimal>`, meaning `rne32(<decimal>)` (R65). A bare
decimal integer is no operand of PACK.F16 (log 12). -/
def argValue (op : BitVec 4) (cs : List Char) : Except AsmReject Word :=
  match afterPrefix "0x".toList cs with
  | some hex => do
    let n ← numberValue hexValue 16 hex
    if n < 2 ^ 32 then return BitVec.ofNat 32 n else .error .outOfRange
  | none =>
    if op = 0xA then
      match afterPrefix "f:".toList cs with
      | some real => do let q ← decimalReal real; return rne32 q
      | none => .error .badNumber
    else do
      let i ← decimalInteger cs
      if -(2 ^ 31) ≤ i ∧ i < 2 ^ 32 then return BitVec.ofInt 32 i else .error .outOfRange

/-- One byte of `data=`, in hex (R65). -/
def dataByte (cs : List Char) : Except AsmReject Byte := do
  let n ← numberValue hexValue 16 cs
  if n < 256 then return BitVec.ofNat 8 n else .error .outOfRange

/-- The fields of a line read so far. -/
structure LineFields where
  ctl : Bool
  arg : Word
  len : Option Nat
  /-- The bytes of `data=`, absent before it. -/
  bytes : Option (List Byte)
deriving DecidableEq, Repr

/-- One token after the mnemonic; a token after `data=` that names no field is one more frame byte. -/
def readToken (op : BitVec 4) (f : LineFields) (cs : List Char) : Except AsmReject LineFields :=
  match afterPrefix "ctl=".toList cs with
  | some v =>
    if v = ['0'] then .ok { f with ctl := false }
    else if v = ['1'] then .ok { f with ctl := true }
    else .error .badNumber
  | none =>
    match afterPrefix "arg=".toList cs with
    | some v => do let w ← argValue op v; return { f with arg := w }
    | none =>
      match afterPrefix "len=".toList cs with
      | some v => do let n ← numberValue decValue 10 v; return { f with len := some n }
      | none =>
        match afterPrefix "data=".toList cs, f.bytes with
        | some v, none => do let b ← dataByte v; return { f with bytes := some [b] }
        | none, some bs => do let b ← dataByte cs; return { f with bytes := some (bs ++ [b]) }
        | _, _ => .error .unknownField

/-- All tokens after the mnemonic. -/
def readTokens (op : BitVec 4) (f : LineFields) : List (List Char) → Except AsmReject LineFields
  | [] => .ok f
  | t :: ts =>
    match readToken op f t with
    | .ok f => readTokens op f ts
    | .error e => .error e

/-- The request of a line: an omitted lane is 0x00, and an omitted `len=` is the number of bytes listed (R65). -/
def lineRequest (op : BitVec 4) (f : LineFields) : Except AsmReject (Request Config.lenW) :=
  let bytes := f.bytes.getD []
  let len := f.len.getD bytes.length
  if 5 < bytes.length then .error .tooManyBytes
  else if 2 ^ Config.lenW ≤ len then .error .lengthNotPresentable
  else .ok { op := op, inCtl := f.ctl, arg := f.arg, inLen := BitVec.ofNat Config.lenW len,
             inData := lanesOfFrame bytes }

/-- One line of assembly: `IDLE`, `RESET`, or `MNEMONIC [ctl=] [arg=] [len=] [data=]` (R65). -/
def assemble (line : List Char) : Except AsmReject Edge :=
  match (splitAtChar ' ' line).filter (fun t => decide (t ≠ [])) with
  | [] => .error .emptyLine
  | mnemonic :: fields =>
    if mnemonic = "IDLE".toList ∧ fields = [] then .ok Edge.idle
    else if mnemonic = "RESET".toList ∧ fields = [] then .ok Edge.reset
    else
      match mnemonicOp mnemonic with
      | none => .error .unknownMnemonic
      | some op => do
        let f ← readTokens op { ctl := false, arg := 0, len := none, bytes := none } fields
        let r ← lineRequest op f
        return Edge.request r

end Sys2Proof.Machine
end

