-- ==== Sys2Proof/Machine/Resp.lean ====
section
/-! DEFINITION. The top-level function `resp(req)` of rule R61, written from its table of op codes, for any `LEN_W` and
either `F16_ARITH`. `step` does not use it: that a step loads what `resp` gives is a statement about both. -/

namespace Sys2Proof.Machine

/-- `resp(req)`: total over every value of every request field (R61); the raised errors become `err(...)`. -/
def resp {lenW : Nat} (mode : F16Arith) (r : Request lenW) : Response :=
  let n := r.inLen.toNat
  let d := r.inData
  match r.op.toNat with
  | 0x0 => okFrame (packBool (r.arg.getLsbD 0))
  | 0x1 => responseOf (do let b ← unpackBool n d; return okValue (zextBit b) false)
  | 0x2 => okFrame (packB3u r.inCtl r.arg)
  | 0x3 => responseOf (do let cv ← unpackB3u n d; return okValue (zext32 3 cv.2) cv.1)
  | 0x4 => okFrame (packU8 (r.arg.extractLsb' 0 8))
  | 0x5 => responseOf (do let v ← unpackU8 n d; return okValue (zext32 8 v) false)
  | 0x6 => okFrame (packU32 r.arg)
  | 0x7 => responseOf (do let w ← unpackU32 n d; return okValue w false)
  | 0x8 => okFrame (packS32 (s32 r.arg))
  | 0x9 => responseOf (do let i ← unpackS32 n d; return okValue (u32 i) false)
  | 0xA => okFrame (packF16 mode r.arg)
  | 0xB => responseOf (do let w ← unpackF16 mode n d; return okValue w false)
  | 0xC => responseOf (chklen n (argLength lenW r.arg))
  | _ => errResponse .illegalOp

end Sys2Proof.Machine
end

