-- ==== Sys2Proof/Machine/Block.lean ====
section
/-! DEFINITION. The block with its parameters as arguments (R8): the meaning of every instruction in either `F16_ARITH`,
and the update rule R23 for every `LEN_W` and `F16_ARITH`. `exec` and `step` are this hardware's; that they are the
instance `Config.params` of these is a statement. -/

namespace Sys2Proof.Machine

/-- The meaning of an instruction in a block built with `F16_ARITH = mode` (R8): only the Float16 pair depends on it. -/
def execIn (mode : F16Arith) (i : Instr) (s : State) : Host.Outcome State Fault Refusal :=
  match i with
  | .packF16 x => execPackF16In mode x s
  | .unpackF16 n d => execUnpackF16In mode n d s
  | .packBool _ | .unpackBool _ _ | .packB3u _ _ | .unpackB3u _ _ | .packU8 _ | .unpackU8 _ _ => exec i s
  | .packU32 _ | .unpackU32 _ _ | .packS32 _ | .unpackS32 _ _ | .chklen _ _ => exec i s
  | .reservedD | .reservedE | .reservedF => exec i s

/-- The update rule at a rising edge of a block with parameters `p` (R23), from the table `resp` (R61). -/
def Registers.atEdge (p : Params) (g : Registers) (e : EdgeOf p.lenW) : Registers :=
  if e.rst then Registers.afterReset
  else if e.reqValid then g.accept (resp p.f16Arith e.req)
  else g.idle

/-- A block with parameters `p`, and what its host drives (log 1). -/
structure Block (p : Params) extends Registers where
  edges : List (EdgeOf p.lenW)
deriving DecidableEq, Repr

/-- The block right after a reset edge (R162), whatever its parameters: they are "untouched by reset". -/
def Block.reset (p : Params) : Block p := { toRegisters := Registers.afterReset, edges := [] }

/-- One rising edge of a block with parameters `p` (R23). -/
def Block.step (p : Params) (b : Block p) : Block p :=
  { toRegisters := b.toRegisters.atEdge p (nextEdge p.lenW b.edges), edges := b.edges.tail }

/-- This hardware's machine as the block with its parameters. -/
def State.toBlock (s : State) : Block Config.params := { toRegisters := s.toRegisters, edges := s.edges }

end Sys2Proof.Machine
end

