-- ==== Sys2Proof/Safety.lean ====
section
/-! DEFINITION. The terms in which statements about the block are written: what a completed request leaves, the legal
values of the response registers (R24), the closed form of the renormalisation (R116) and the bit layout of a Float16
frame (R117). -/

namespace Sys2Proof.Machine

/-- The state after a request that produced a frame: status OK, the frame's length and lanes, the value outputs 0
(R60 `ok_frame`). Everything else is as in `s`. -/
def State.withFrame (s : State) (len : BitVec 3) (d : Lanes) : State :=
  { s with rspValid := true, rspStatus := 0, rspLen := len, rspData := d, rspVal := 0, rspCtl := false }

/-- The state after a request that produced a value: status OK, no frame (R60 `ok_value`). Everything else is as in
`s`. -/
def State.withValue (s : State) (v : Word) (c : Bool) : State :=
  { s with rspValid := true, rspStatus := 0, rspLen := 0, rspData := ⟨0, 0, 0, 0, 0⟩, rspVal := v, rspCtl := c }

/-- The state after a request that completed with an error: its code, every other output 0 (R142). Everything else is
as in `s`. -/
def State.withError (s : State) (code : BitVec 2) : State :=
  { s with rspValid := true, rspStatus := code, rspLen := 0, rspData := ⟨0, 0, 0, 0, 0⟩, rspVal := 0, rspCtl := false }

/-- The op of the last accepted request, after one more edge; a reset edge starts anew. -/
def lastAccepted {lenW : Nat} (last : Option (BitVec 4)) (e : EdgeOf lenW) : Option (BitVec 4) :=
  if e.rst then none else if e.reqValid then some e.req.op else last

/-- The legal-value invariants of the response registers, given the last accepted op (R24). -/
def Registers.Legal (s : Registers) (last : Option (BitVec 4)) : Prop :=
  s.rspStatus ≠ 3 ∧
  (s.rspLen = 0 ∨ s.rspLen = 1 ∨ s.rspLen = 2 ∨ s.rspLen = 3 ∨ s.rspLen = 5) ∧
  (s.rspLen ≠ 0 → s.rspStatus = 0 ∧ ∃ op, last = some op ∧ isPackOp op = true) ∧
  (∀ i, i < 5 → s.rspLen.toNat ≤ i → s.rspData.lane i = 0) ∧
  (s.rspVal ≠ 0 ∨ s.rspCtl = true → s.rspStatus = 0 ∧ ∃ op, last = some op ∧ isUnpackOp op = true)

/-- The legal-value invariants of the machine's registers (R24). -/
def State.Legal (s : State) (last : Option (BitVec 4)) : Prop := s.toRegisters.Legal last

/-- `e = the least k >= 0 with -2048 <= trunc(m0 / 2^k) <= 2047`, and `m = trunc(m0 / 2^e)` (R116), with `e <= 15`
(R115). -/
def IsClosedForm (m0 m : Int) (e : Nat) : Prop :=
  e ≤ 15 ∧ m = trunc ((m0 : ℚ) / 2 ^ e) ∧ -2048 ≤ m ∧ m ≤ 2047 ∧
  ∀ k, k < e → ¬(-2048 ≤ trunc ((m0 : ℚ) / 2 ^ k) ∧ trunc ((m0 : ℚ) / 2 ^ k) ≤ 2047)

/-- Byte 1 and byte 2 of the Float16 frame of `(m, e)` as one word `{s, e[3:0], mant[10:0]}` (R117), where `mant` is
`m` modulo 2048. -/
def f16Payload (m : Int) (e : Nat) : BitVec 16 :=
  BitVec.ofBool (decide (m < 0)) ++ BitVec.ofNat 4 e ++ BitVec.ofInt 11 m

/-- The Float16 frame of `(m, e)` in the response lanes. -/
def f16Lanes (m : Int) (e : Nat) : Lanes :=
  ⟨0, (f16Payload m e).extractLsb' 8 8, (f16Payload m e).extractLsb' 0 8, 0, 0⟩

/-- One unit in the last place of a finite binary32 word. -/
def ulp32 (w : Word) : ℚ := 2 ^ lastPlace w

end Sys2Proof.Machine
end

