-- ==== Sys2Proof/Certificates/Slice0/Obligations.lean ====
section
/-! DEFINITION. The statements for the provers. Each docstring names the rule of spec/ (or the spec's own inference, or
the model's choice) that the statement formalises. `withFrame`, `withValue` and `withError` (Safety.lean) are record
updates: an equation `exec i s = .next (s.withFrame …)` says every field of the next state, and so its frame too. -/

open Sys2Proof Sys2Proof.Machine

/-! ### What each operation does, and that it completes -/

/-- R87, PACK.BOOL. -/
def Obligations.PackBoolResult : Prop :=
  (∀ lenW, ∀ r : Request lenW, r.op = 0x0 → decode r = .packBool (r.arg.getLsbD 0)) ∧
  ∀ b s, exec (.packBool b) s = .next (s.withFrame 1 ⟨if b then 0x01 else 0x00, 0, 0, 0, 0⟩)

/-- R88, UNPACK.BOOL. -/
def Obligations.UnpackBoolResult : Prop :=
  (∀ lenW, ∀ r : Request lenW, r.op = 0x1 → decode r = .unpackBool r.inLen.toNat r.inData) ∧
  ∀ n d s, exec (.unpackBool n d) s =
    .next (if n = 1 then s.withValue (if d.d0.getLsbD 0 then 1 else 0) false else s.withError 1)

/-- R89, PACK.B3U: bits 7..4 are 0, bit 3 is the control bit, bits 2..0 are `value & 0b111`. -/
def Obligations.PackB3uResult : Prop :=
  (∀ lenW, ∀ r : Request lenW, r.op = 0x2 → decode r = .packB3u r.inCtl r.arg) ∧
  ∀ control value s, exec (.packB3u control value) s =
    .next (s.withFrame 1 ⟨0#4 ++ BitVec.ofBool control ++ value.extractLsb' 0 3, 0, 0, 0, 0⟩)

/-- R90, UNPACK.B3U. -/
def Obligations.UnpackB3uResult : Prop :=
  (∀ lenW, ∀ r : Request lenW, r.op = 0x3 → decode r = .unpackB3u r.inLen.toNat r.inData) ∧
  ∀ n d s, exec (.unpackB3u n d) s =
    .next (if n = 1 then s.withValue ((d.d0.extractLsb' 0 3).setWidth 32) (d.d0.getLsbD 3) else s.withError 1)

/-- R91, PACK.U8. -/
def Obligations.PackU8Result : Prop :=
  (∀ lenW, ∀ r : Request lenW, r.op = 0x4 → decode r = .packU8 (r.arg.extractLsb' 0 8)) ∧
  ∀ v s, exec (.packU8 v) s = .next (s.withFrame 2 ⟨0, v, 0, 0, 0⟩)

/-- R92, UNPACK.U8. -/
def Obligations.UnpackU8Result : Prop :=
  (∀ lenW, ∀ r : Request lenW, r.op = 0x5 → decode r = .unpackU8 r.inLen.toNat r.inData) ∧
  ∀ n d s, exec (.unpackU8 n d) s =
    .next (if n = 2 then s.withValue (d.d1.setWidth 32) false else s.withError 1)

/-- R93, PACK.U32. -/
def Obligations.PackU32Result : Prop :=
  (∀ lenW, ∀ r : Request lenW, r.op = 0x6 → decode r = .packU32 r.arg) ∧
  ∀ w s, exec (.packU32 w) s = .next (s.withFrame 5
    ⟨0, w.extractLsb' 24 8, w.extractLsb' 16 8, w.extractLsb' 8 8, w.extractLsb' 0 8⟩)

/-- R94, UNPACK.U32. -/
def Obligations.UnpackU32Result : Prop :=
  (∀ lenW, ∀ r : Request lenW, r.op = 0x7 → decode r = .unpackU32 r.inLen.toNat r.inData) ∧
  ∀ n d s, exec (.unpackU32 n d) s =
    .next (if n = 5 then s.withValue (d.d1 ++ d.d2 ++ d.d3 ++ d.d4) false else s.withError 1)

/-- R95, PACK.S32: the operand is the two's-complement reading of `arg`, in [-2^31, 2^31 - 1]; the frame of an integer
in that range holds its 32-bit word. -/
def Obligations.PackS32Result : Prop :=
  (∀ lenW, ∀ r : Request lenW, r.op = 0x8 →
    ∃ i, decode r = .packS32 i ∧ i = r.arg.toInt ∧ -(2 ^ 31) ≤ i ∧ i < 2 ^ 31) ∧
  ∀ i s, -(2 ^ 31) ≤ i → i < 2 ^ 31 → exec (.packS32 i) s = .next (s.withFrame 5
    ⟨0, (BitVec.ofInt 32 i).extractLsb' 24 8, (BitVec.ofInt 32 i).extractLsb' 16 8,
      (BitVec.ofInt 32 i).extractLsb' 8 8, (BitVec.ofInt 32 i).extractLsb' 0 8⟩)

/-- R96, UNPACK.S32: the integer is the two's-complement reading, `RSP_VAL` its bit pattern. -/
def Obligations.UnpackS32Result : Prop :=
  (∀ lenW, ∀ r : Request lenW, r.op = 0x9 → decode r = .unpackS32 r.inLen.toNat r.inData) ∧
  (∀ d, unpackS32 5 d = .ok (BitVec.toInt (d.d1 ++ d.d2 ++ d.d3 ++ d.d4 : BitVec 32))) ∧
  ∀ n d s, exec (.unpackS32 n d) s =
    .next (if n = 5 then s.withValue (d.d1 ++ d.d2 ++ d.d3 ++ d.d4) false else s.withError 1)

/-- R78, CHKLEN: the presented length is compared with `arg[LEN_W-1:0]`, for every `LEN_W` that fits `arg`. -/
def Obligations.ChklenResult : Prop :=
  (∀ lenW, lenW ≤ 32 → ∀ r : Request lenW, r.op = 0xC → decode r = .chklen r.inLen.toNat (r.arg.toNat % 2 ^ lenW)) ∧
  ∀ n expected s, exec (.chklen n expected) s =
    .next (if n = expected then s.withValue 0 false else s.withError 1)

/-- R62, R144: the reserved codes complete with ILLEGAL_OP whatever the other fields hold, and no defined op does. -/
def Obligations.ReservedOpsResult : Prop :=
  (∀ lenW, ∀ r : Request lenW, (r.op = 0xD → decode r = .reservedD) ∧ (r.op = 0xE → decode r = .reservedE) ∧
    (r.op = 0xF → decode r = .reservedF)) ∧
  (∀ s, exec .reservedD s = .next (s.withError 2) ∧ exec .reservedE s = .next (s.withError 2) ∧
    exec .reservedF s = .next (s.withError 2)) ∧
  ∀ lenW, ∀ r : Request lenW, ∀ s, r.op.toNat < 0xD → ∃ t, exec (decode r) s = .next t ∧ t.rspStatus ≠ 2

/-- R120: the fields UNPACK.F16 extracts, `{d[1][2:0], d[2]}` less 2048 when `d[1][7] = 1`, and `d[1][6:3]`, with the
range R120 gives each; byte 0 is not read. The result is the correctly rounded `m * 2^e / 100` of R121. -/
def Obligations.UnpackF16Fields : Prop :=
  (∀ lenW, ∀ r : Request lenW, r.op = 0xB → decode r = .unpackF16 r.inLen.toNat r.inData) ∧
  ∀ n d s, ∃ (m : Int) (e : Nat),
    m = (BitVec.toNat (d.d1.extractLsb' 0 3 ++ d.d2) : Int) - (if d.d1.getLsbD 7 then 2048 else 0) ∧
    e = (d.d1.extractLsb' 3 4).toNat ∧ -2048 ≤ m ∧ m ≤ 2047 ∧ e ≤ 15 ∧
    exec (.unpackF16 n d) s =
      .next (if n = 3 then s.withValue (rne32 ((m : ℚ) * 2 ^ e / 100)) false else s.withError 1)

/-- R121, UNPACK.F16 whole: the rounded value for length 3, the error for every other length; the result is never
NaN, infinity, -0.0 or subnormal, `m = 0` gives +0.0, and the extremes are those of the payloads `7F FF` and `F8 00`. -/
def Obligations.UnpackF16Result : Prop :=
  (∀ lenW, ∀ r : Request lenW, r.op = 0xB → decode r = .unpackF16 r.inLen.toNat r.inData) ∧
  (∀ n d s, n ≠ 3 → exec (.unpackF16 n d) s = .next (s.withError 1)) ∧
  (∀ d s, ∃ w, exec (.unpackF16 3 d) s = .next (s.withValue w false) ∧
    w = rne32 ((f16Mantissa d : ℚ) * 2 ^ f16Exponent d / 100) ∧
    (f16Mantissa d = 0 → w = 0x00000000) ∧
    expField w ≠ 0xFF ∧ (expField w = 0 → w = 0x00000000) ∧
    val32 0xC923D70A ≤ val32 w ∧ val32 w ≤ val32 0x4923C28F) ∧
  (∀ h a b s, exec (.unpackF16 3 ⟨h, 0x7F, 0xFF, a, b⟩) s = .next (s.withValue 0x4923C28F false)) ∧
  (∀ h a b s, exec (.unpackF16 3 ⟨h, 0xF8, 0x00, a, b⟩) s = .next (s.withValue 0xC923D70A false)) ∧
  (∀ h a b s, exec (.unpackF16 3 ⟨h, 0x80, 0x00, a, b⟩) s = .next (s.withValue 0xC1A3D70A false))

/-- 43_float16.md section 3, UNPACK.F16 under `BINARY32`: 0.01 is rounded first, then the product; the scaling by
`2^e` is exact. The pairs are the rule's own examples. (The rule's count of differing payloads is not stated here.) -/
def Obligations.UnpackF16Binary32Result : Prop :=
  rne32 (1 / 100) = 0x3C23D70A ∧
  val32 0x3C23D70A = 999999977648258209228515625 / 10 ^ 29 ∧
  (∀ d, ∃ t : ℚ, t = fl32 (val32 0x3C23D70A * (f16Mantissa d : ℚ)) ∧
    unpackF16 .binary32 3 d = .ok (rne32 (t * 2 ^ f16Exponent d)) ∧
    val32 (rne32 (t * 2 ^ f16Exponent d)) = t * 2 ^ f16Exponent d ∧
    (f16Mantissa d = 0 → rne32 (t * 2 ^ f16Exponent d) = 0x00000000)) ∧
  unpackF16 .binary32 3 ⟨0, 0x0C, 0x28, 0, 0⟩ = .ok 0x41AA3D70 ∧
  unpackF16 .exact 3 ⟨0, 0x0C, 0x28, 0, 0⟩ = .ok 0x41AA3D71 ∧
  unpackF16 .binary32 3 ⟨0, 0x00, 0x05, 0, 0⟩ = .ok 0x3D4CCCCC ∧
  unpackF16 .exact 3 ⟨0, 0x00, 0x05, 0, 0⟩ = .ok 0x3D4CCCCD

/-- PACK.F16 completes for every operand with a 3-byte frame whose header is 0 (R118's response; the bytes are those
of `packF16`, about which the statements below say more). -/
def Obligations.PackF16Completes : Prop :=
  (∀ lenW, ∀ r : Request lenW, r.op = 0xA → decode r = .packF16 r.arg) ∧
  ∀ x s, ∃ b1 b2, packF16 .exact x = [0x00, b1, b2] ∧
    exec (.packF16 x) s = .next (s.withFrame 3 ⟨0, b1, b2, 0, 0⟩)

/-- PACK.F16 whole (the operation of R118), with the loop in its closed form: NaN, the infinities, and for a finite
operand the clamp, the truncated product, the least number of halvings, and the bit packing. The closed form and
`e <= 15` are the spec's own inferences, R116 and R115. -/
def Obligations.PackF16Result : Prop :=
  (∀ lenW, ∀ r : Request lenW, r.op = 0xA → decode r = .packF16 r.arg) ∧
  ∀ x s,
    (x.extractLsb' 23 8 = 0xFF ∧ x.extractLsb' 0 23 ≠ 0 →
      exec (.packF16 x) s = .next (s.withFrame 3 ⟨0, 0x7F, 0xFF, 0, 0⟩)) ∧
    (x = 0x7F800000 → exec (.packF16 x) s = .next (s.withFrame 3 ⟨0, 0x7F, 0xFF, 0, 0⟩)) ∧
    (x = 0xFF800000 → exec (.packF16 x) s = .next (s.withFrame 3 ⟨0, 0xF8, 0x00, 0, 0⟩)) ∧
    (x.extractLsb' 23 8 ≠ 0xFF → ∃ (m : Int) (e : Nat),
      IsClosedForm (trunc (100 * max (-67108864 / 100) (min (67076096 / 100) (val32 x)))) m e ∧
      exec (.packF16 x) s = .next (s.withFrame 3 (f16Lanes m e)))

/-- R128 and R129: NaN of any payload and sign, and the infinities, in both modes; on this hardware they complete. -/
def Obligations.PackF16SpecialInputs : Prop :=
  (∀ mode x, x.extractLsb' 23 8 = 0xFF → x.extractLsb' 0 23 ≠ 0 → packF16 mode x = [0x00, 0x7F, 0xFF]) ∧
  packF16 .exact 0x7F800000 = [0x00, 0x7F, 0xFF] ∧ packF16 .exact 0xFF800000 = [0x00, 0xF8, 0x00] ∧
  packF16 .binary32 0x7F800000 = [0x00, 0x7F, 0xFE] ∧ packF16 .binary32 0xFF800000 = [0x00, 0xF8, 0x00] ∧
  (∀ x s, x.extractLsb' 23 8 = 0xFF → x.extractLsb' 0 23 ≠ 0 →
    exec (.packF16 x) s = .next (s.withFrame 3 ⟨0, 0x7F, 0xFF, 0, 0⟩)) ∧
  ∀ s, exec (.packF16 0x7F800000) s = .next (s.withFrame 3 ⟨0, 0x7F, 0xFF, 0, 0⟩) ∧
    exec (.packF16 0xFF800000) s = .next (s.withFrame 3 ⟨0, 0xF8, 0x00, 0, 0⟩)

/-- 43_float16.md section 2, PACK.F16 under `BINARY32`: the bounds and the product are rounded to binary32, the loop
and the packing are unchanged, `e <= 15` still holds. The last two clauses are the section's example 21.3. -/
def Obligations.PackF16Binary32Result : Prop :=
  rne32 (67076096 / 100) = 0x4923C28F ∧ val32 0x4923C28F = 670760.9375 ∧
  rne32 (-67108864 / 100) = 0xC923D70A ∧ val32 0xC923D70A = -671088.625 ∧
  (∀ x, x.extractLsb' 23 8 ≠ 0xFF → ∃ (m0 m : Int) (e : Nat),
    m0 = trunc (fl32 (100 * max (-671088.625) (min 670760.9375 (val32 x)))) ∧
    |fl32 (100 * max (-671088.625) (min 670760.9375 (val32 x)))| ≤ 2 ^ 26 ∧
    IsClosedForm m0 m e ∧
    packF16 .binary32 x = [0x00, (f16Payload m e).extractLsb' 8 8, (f16Payload m e).extractLsb' 0 8]) ∧
  fl32 (100 * 670760.9375) = 67076092 ∧
  packF16 .exact 0x41AA6666 = [0x00, 0x0C, 0x28] ∧ packF16 .binary32 0x41AA6666 = [0x00, 0x0C, 0x29]

/-! ### The numbers of the Float16 codec -/

/-- The primitives of 00_scope.md section 4: `trunc` is the nearest integer in the direction of zero, `tdiv2` is
`trunc` of the half, `val32` reads the binary32 fields, both zeros as 0. -/
def Obligations.NumericPrimitives : Prop :=
  (∀ q : ℚ, |(trunc q : ℚ)| ≤ |q| ∧ |q - trunc q| < 1 ∧ 0 ≤ (trunc q : ℚ) * q) ∧
  (∀ m : Int, tdiv2 m = trunc ((m : ℚ) / 2)) ∧
  (∀ w, expField w = 0 → val32 w = (if w.getLsbD 31 then -1 else 1) * ((fracField w : ℚ) / 2 ^ 149)) ∧
  (∀ w, 0 < expField w → expField w < 0xFF → val32 w =
    (if w.getLsbD 31 then -1 else 1) * (1 + (fracField w : ℚ) / 2 ^ 23) * (2 ^ expField w / 2 ^ 127)) ∧
  val32 0x80000000 = 0

/-- `rne32` of 00_scope.md section 4: no finite word is nearer, a tie goes to an even fraction field, 0 gives +0.0,
subnormals are kept, and everything below half a place beyond the largest finite value stays finite. -/
def Obligations.RneNearestEven : Prop :=
  (∀ (q : ℚ) (w : Word), isFinite w = true → isFinite (rne32 q) = true →
    |q - val32 (rne32 q)| ≤ |q - val32 w| ∧
    (|q - val32 (rne32 q)| = |q - val32 w| → val32 w ≠ val32 (rne32 q) → fracField (rne32 q) % 2 = 0)) ∧
  rne32 0 = 0x00000000 ∧
  (∀ w, isFinite w = true → w ≠ 0x80000000 → rne32 (val32 w) = w) ∧
  ∀ q : ℚ, |q| < 2 ^ 128 - 2 ^ 103 → isFinite (rne32 q) = true

/-- The loop of R114 halves with truncation toward zero while the mantissa is
outside [-2048, 2047], counting from 0; stated for every provisional mantissa the clamp allows. That it ends within 15
halvings is the spec's own inference R115, and that the model's 16 turns are therefore
enough is log 8 (DEDUCED). -/
def Obligations.RenormIsTheLoop : Prop :=
  (∀ m : Int, tdiv2 m = trunc ((m : ℚ) / 2)) ∧
  ∀ m0 : Int, -67108864 ≤ m0 → m0 ≤ 67076096 → ∃ k, k ≤ 15 ∧
    renorm 16 m0 0 = (tdiv2^[k] m0, k) ∧ (-2048 ≤ tdiv2^[k] m0 ∧ tdiv2^[k] m0 ≤ 2047) ∧
    ∀ j, j < k → ¬(-2048 ≤ tdiv2^[j] m0 ∧ tdiv2^[j] m0 ≤ 2047)

/-- 43_float16.md section 2, "Termination and exponent range" and "Equivalent closed form" (the spec's own
inferences): the loop gives the closed form, within 15 halvings. -/
def Obligations.RenormClosedForm : Prop :=
  ∀ m0 : Int, -67108864 ≤ m0 → m0 ≤ 67076096 → IsClosedForm m0 (renorm 16 m0 0).1 (renorm 16 m0 0).2

/-- R117: the 16 bits of byte 1 and byte 2 are `{s, e[3:0], mant[10:0]}` with `mant` = `m + 2048` or `m`, after a
header 0; and the field extraction of R120 gives `(m, e)` back. -/
def Obligations.F16BitPacking : Prop :=
  ∀ (m : Int) (e : Nat), -2048 ≤ m → m ≤ 2047 → e ≤ 15 →
    ∃ b1 b2 : Byte, f16Frame m e = [0x00, b1, b2] ∧
      BitVec.toNat (b1 ++ b2) =
        (if m < 0 then 1 else 0) * 2 ^ 15 + e * 2 ^ 11 + (if m < 0 then m + 2048 else m).toNat ∧
      (∀ h a b, f16Mantissa ⟨h, b1, b2, a, b⟩ = m ∧ f16Exponent ⟨h, b1, b2, a, b⟩ = e)

/-- 43_float16.md section 2, the clamp: the bounds are `q(2047, 15)` and `q(-2048, 15)`, values outside saturate, and
for binary32 inputs it acts exactly from 670761.0 up and from -671088.6875 down (the spec's own inference). -/
def Obligations.ClampSaturates : Prop :=
  upperBound = f16Value 2047 15 ∧ lowerBound = f16Value (-2048) 15 ∧
  (∀ x, upperBound < x → clampF .exact x = upperBound) ∧ (∀ x, x < lowerBound → clampF .exact x = lowerBound) ∧
  (∀ x, lowerBound ≤ x → x ≤ upperBound → clampF .exact x = x) ∧
  ∀ w, isFinite w = true →
    (clampF .exact (val32 w) ≠ val32 w ↔ 670761 ≤ val32 w ∨ val32 w ≤ -671088.6875)

/-- 43_float16.md section 4, "Quantization error" (the spec's own inference): on the exact decoded value the error is
below `0.01 * 2^e`, and truncation never moves away from zero. -/
def Obligations.QuantizationError : Prop :=
  ∀ x s, isFinite x = true → lowerBound ≤ val32 x → val32 x ≤ upperBound →
    ∃ d, exec (.packF16 x) s = .next (s.withFrame 3 d) ∧
      f16Mantissa d = trunc (100 * val32 x / 2 ^ f16Exponent d) ∧
      |val32 x - f16Value (f16Mantissa d) (f16Exponent d)| < 2 ^ f16Exponent d / 100 ∧
      |f16Value (f16Mantissa d) (f16Exponent d)| ≤ |val32 x|

/-- 43_float16.md section 4, "Quantization error" (the spec's own inference): the binary32 result adds at most half a
unit in its last place, and without that half unit the bound fails (f:-0.22, the spec's example). -/
def Obligations.DecodedErrorBound : Prop :=
  (∀ x s, isFinite x = true → lowerBound ≤ val32 x → val32 x ≤ upperBound →
    ∃ d w, exec (.packF16 x) s = .next (s.withFrame 3 d) ∧
      exec (.unpackF16 3 d) (s.withFrame 3 d) = .next (s.withValue w false) ∧
      |val32 w - val32 x| < 2 ^ f16Exponent d / 100 + ulp32 w / 2) ∧
  packF16 .exact 0xBE6147AE = [0x00, 0x87, 0xEB] ∧
  unpackF16 .exact 3 ⟨0, 0x87, 0xEB, 0, 0⟩ = .ok 0xBE570A3D ∧
  (1 : ℚ) / 100 < |val32 0xBE570A3D - val32 0xBE6147AE|

/-- 43_float16.md section 4, decode-then-encode (the spec's own inference): payload `28 01` decodes to 0x3EA3D70A in
both modes, which packs to `00 00 1F` under EXACT and to `00 00 20` under BINARY32. -/
def Obligations.DecodeThenEncodeChanges : Prop :=
  (∀ mode, unpackF16 mode 3 ⟨0, 0x28, 0x01, 0, 0⟩ = .ok 0x3EA3D70A) ∧
  packF16 .exact 0x3EA3D70A = [0x00, 0x00, 0x1F] ∧ packF16 .binary32 0x3EA3D70A = [0x00, 0x00, 0x20]

/-- 43_float16.md section 4, "Normal form of pack output" and "Range of PACK.F16 output" (the spec's own
inferences): `e = 0`, or `m` in [1024, 2047] or [-2048, -1024]; every payload's exact value lies in [L, U]. -/
def Obligations.PackNormalForm : Prop :=
  (∀ mode x, ∃ b1 b2, packF16 mode x = [0x00, b1, b2] ∧ ∀ h a b,
    f16Exponent ⟨h, b1, b2, a, b⟩ = 0 ∨
    (1024 ≤ f16Mantissa ⟨h, b1, b2, a, b⟩ ∧ f16Mantissa ⟨h, b1, b2, a, b⟩ ≤ 2047) ∨
    (-2048 ≤ f16Mantissa ⟨h, b1, b2, a, b⟩ ∧ f16Mantissa ⟨h, b1, b2, a, b⟩ ≤ -1024)) ∧
  ∀ d, lowerBound ≤ f16Value (f16Mantissa d) (f16Exponent d) ∧
    f16Value (f16Mantissa d) (f16Exponent d) ≤ upperBound

/-- 43_float16.md section 4, "Sign behaviour of the encoding" (the spec's own inference): in both modes the decoded
value of the negated input is the negated decoded value, except that +0.0 has no negative. -/
def Obligations.SignSymmetry : Prop :=
  ∀ mode x, isFinite x = true → |val32 x| ≤ 670760.9375 →
    ∃ a b, unpackF16 mode 3 (lanesOfFrame (packF16 mode x)) = .ok a ∧
      unpackF16 mode 3 (lanesOfFrame (packF16 mode (x ^^^ 0x80000000))) = .ok b ∧
      (a = 0 ∧ b = 0 ∨ a ≠ 0 ∧ b = a ^^^ 0x80000000)

/-- 43_float16.md section 4, "Sign behaviour of the encoding" (the spec's own inference): the split depends on the
sign. -/
def Obligations.SplitDependsOnSign : Prop :=
  ∀ (k : Nat) (m0 : Int), k ≤ 14 → 2048 * 2 ^ k ≤ m0 → m0 < 2048 * 2 ^ k + 2 ^ k →
    renorm 16 m0 0 = (1024, k + 1) ∧ renorm 16 (-m0) 0 = (-2048, k)

/-- 43_float16.md section 4, "Zeros and tiny values" (the spec's own inference): everything below 0.01 in magnitude,
both zeros and the subnormals included, packs to `00 00 00`. -/
def Obligations.TinyValuesPackToZero : Prop :=
  ∀ x s, isFinite x = true → |val32 x| < 1 / 100 →
    exec (.packF16 x) s = .next (s.withFrame 3 ⟨0, 0, 0, 0, 0⟩)

/-- 43_float16.md section 4, "The literal bounds as binary32 inputs" (the spec's own inference): exactly which words
give the two extreme frames, in each mode, and the frames of the literal bounds. -/
def Obligations.ExtremeFrames : Prop :=
  (∀ x, packF16 .exact x = [0x00, 0x7F, 0xFF] ↔
    isNaN x = true ∨ x = 0x7F800000 ∨ (isFinite x = true ∧ 670761 ≤ val32 x)) ∧
  (∀ x, packF16 .exact x = [0x00, 0xF8, 0x00] ↔
    x = 0xFF800000 ∨ (isFinite x = true ∧ val32 x ≤ -671088.6875)) ∧
  (∀ x, packF16 .binary32 x = [0x00, 0x7F, 0xFF] ↔ isNaN x = true) ∧
  (∀ x, packF16 .binary32 x = [0x00, 0xF8, 0x00] ↔
    x = 0xFF800000 ∨ (isFinite x = true ∧ val32 x ≤ -671088.625)) ∧
  (∀ mode, packF16 mode 0x4923C28F = [0x00, 0x7F, 0xFE]) ∧
  packF16 .exact 0xC923D70A = [0x00, 0xF8, 0x01] ∧ packF16 .binary32 0xC923D70A = [0x00, 0xF8, 0x00]

/-! ### Laws over families of operations -/

/-- 42_fixed_width.md, "Laws of the family" (the spec's own inferences): unpack of the packed frame with its length
gives the value back; of a Bool+3bit value above 7, its low three bits. The signed and the unsigned 32-bit operations
give the same frame for the same `arg` and the same `RSP_VAL` for the same frame. That PACK.S32 of an integer outside
[-2^31, 2^31 - 1], which no request decodes to, packs its word modulo 2^32 is the MODEL'S CHOICE (log 11). -/
def Obligations.FixedWidthLaws : Prop :=
  (∀ (i : Int) s, exec (.packS32 i) s = exec (.packU32 (BitVec.ofNat 32 (i % 2 ^ 32).toNat)) s) ∧
  (∀ lenW, ∀ r r' : Request lenW, ∀ s, r.op = 0x6 → r' = { r with op := 0x8 } →
    exec (decode r) s = exec (decode r') s) ∧
  (∀ n d s, exec (.unpackU32 n d) s = exec (.unpackS32 n d) s) ∧
  ∀ s,
    (∀ b, ∃ t, exec (.packBool b) s = .next t ∧
      exec (.unpackBool t.rspLen.toNat t.rspData) t = .next (s.withValue (if b then 1 else 0) false)) ∧
    (∀ control value, ∃ t, exec (.packB3u control value) s = .next t ∧
      exec (.unpackB3u t.rspLen.toNat t.rspData) t = .next (s.withValue (value &&& 7) control)) ∧
    (∀ v, ∃ t, exec (.packU8 v) s = .next t ∧
      exec (.unpackU8 t.rspLen.toNat t.rspData) t = .next (s.withValue (v.setWidth 32) false)) ∧
    (∀ w, ∃ t, exec (.packU32 w) s = .next t ∧
      exec (.unpackU32 t.rspLen.toNat t.rspData) t = .next (s.withValue w false)) ∧
    (∀ i, -(2 ^ 31) ≤ i → i < 2 ^ 31 → ∃ t, exec (.packS32 i) s = .next t ∧
      unpackS32 t.rspLen.toNat t.rspData = .ok i ∧
      exec (.unpackS32 t.rspLen.toNat t.rspData) t = .next (s.withValue (BitVec.ofInt 32 i) false))

/-- R76, R77, R143: the length check succeeds exactly on equal lengths; every unpack with a wrong length completes
with INVALID_LENGTH whatever the lanes hold, and with the right length, whatever the lanes hold, with OK; CHKLEN
likewise. -/
def Obligations.LengthCheckDecides : Prop :=
  (∀ n expected, (n = expected → lencheck n expected = .ok ()) ∧
    (n ≠ expected → lencheck n expected = .error .invalidLength)) ∧
  frameLen .boolean = 1 ∧ frameLen .bool3 = 1 ∧ frameLen .unsigned8 = 2 ∧ frameLen .unsigned32 = 5 ∧
  frameLen .signed32 = 5 ∧ frameLen .float16 = 3 ∧
  (∀ l n s, n ≠ frameLen l → ∀ d, exec (unpackInstr l n d) s = .next (s.withError 1)) ∧
  (∀ l s d, ∃ v c, exec (unpackInstr l (frameLen l) d) s = .next (s.withValue v c)) ∧
  (∀ n expected s, n ≠ expected → exec (.chklen n expected) s = .next (s.withError 1)) ∧
  ∀ n s, exec (.chklen n n) s = .next (s.withValue 0 false)

/-- R57: an unpack reads no lane at or beyond its layout's length, and none at all when the length check fails. -/
def Obligations.UnpackReadsOnlyItsLanes : Prop :=
  (∀ l n d d' s, (∀ i, i < frameLen l → d.lane i = d'.lane i) →
    exec (unpackInstr l n d) s = exec (unpackInstr l n d') s) ∧
  ∀ l n d d' s, n ≠ frameLen l → exec (unpackInstr l n d) s = exec (unpackInstr l n d') s

/-- R63: unpack ignores the header bytes, bits 7..1 of the Boolean byte and bits 7..4 of the Bool+3bit byte; pack
writes every one of them as 0. -/
def Obligations.ReservedFrameBits : Prop :=
  (∀ l n d h s, l ≠ .boolean → l ≠ .bool3 →
    exec (unpackInstr l n { d with d0 := h }) s = exec (unpackInstr l n d) s) ∧
  (∀ n d s, exec (.unpackBool n { d with d0 := d.d0 &&& 0x01 }) s = exec (.unpackBool n d) s) ∧
  (∀ n d s, exec (.unpackB3u n { d with d0 := d.d0 &&& 0x0F }) s = exec (.unpackB3u n d) s) ∧
  (∀ b s, ∃ t, exec (.packBool b) s = .next t ∧ t.rspData.d0 &&& 0xFE = 0) ∧
  (∀ control value s, ∃ t, exec (.packB3u control value) s = .next t ∧ t.rspData.d0 &&& 0xF0 = 0) ∧
  (∀ v s, ∃ t, exec (.packU8 v) s = .next t ∧ t.rspData.d0 = 0) ∧
  (∀ w s, ∃ t, exec (.packU32 w) s = .next t ∧ t.rspData.d0 = 0) ∧
  (∀ i s, ∃ t, exec (.packS32 i) s = .next t ∧ t.rspData.d0 = 0) ∧
  ∀ x s, ∃ t, exec (.packF16 x) s = .next t ∧ t.rspData.d0 = 0

/-- R53: the fields an operation does not read (R56, `readFields`) have no effect on its response. -/
def Obligations.UnreadFieldsHaveNoEffect : Prop :=
  ∀ lenW, ∀ r r' : Request lenW, ∀ s, readFields r = readFields r' → exec (decode r) s = exec (decode r') s

/-- R55, R56: the op map and how each operand is formed from the request fields; CHKLEN's `arg[LEN_W-1:0]` for every
`LEN_W` that fits `arg`. -/
def Obligations.OpMap : Prop :=
  ∀ lenW, ∀ r : Request lenW,
    (r.op = 0x0 → decode r = .packBool (r.arg.getLsbD 0)) ∧
    (r.op = 0x1 → decode r = .unpackBool r.inLen.toNat r.inData) ∧
    (r.op = 0x2 → decode r = .packB3u r.inCtl r.arg) ∧
    (r.op = 0x3 → decode r = .unpackB3u r.inLen.toNat r.inData) ∧
    (r.op = 0x4 → decode r = .packU8 (r.arg.extractLsb' 0 8)) ∧
    (r.op = 0x5 → decode r = .unpackU8 r.inLen.toNat r.inData) ∧
    (r.op = 0x6 → decode r = .packU32 r.arg) ∧
    (r.op = 0x7 → decode r = .unpackU32 r.inLen.toNat r.inData) ∧
    (r.op = 0x8 → decode r = .packS32 r.arg.toInt) ∧
    (r.op = 0x9 → decode r = .unpackS32 r.inLen.toNat r.inData) ∧
    (r.op = 0xA → decode r = .packF16 r.arg) ∧
    (r.op = 0xB → decode r = .unpackF16 r.inLen.toNat r.inData) ∧
    (lenW ≤ 32 → r.op = 0xC → decode r = .chklen r.inLen.toNat (r.arg.toNat % 2 ^ lenW)) ∧
    (r.op = 0xD → decode r = .reservedD) ∧ (r.op = 0xE → decode r = .reservedE) ∧
    (r.op = 0xF → decode r = .reservedF)

/-- R54: `op[3:1]` is the layout and `op[0]` the direction for codes 0x0 to 0xB; 0xC is the validator. -/
def Obligations.OpFieldStructure : Prop :=
  (layoutNumber .boolean = 0 ∧ layoutNumber .bool3 = 1 ∧ layoutNumber .unsigned8 = 2 ∧
    layoutNumber .unsigned32 = 3 ∧ layoutNumber .signed32 = 4 ∧ layoutNumber .float16 = 5) ∧
  ∀ lenW, ∀ r : Request lenW,
    (r.op.toNat < 0xC → ∃ l, layoutOf (decode r) = some l ∧ layoutNumber l = (r.op.extractLsb' 1 3).toNat ∧
      (r.op.getLsbD 0 = true → decode r = unpackInstr l r.inLen.toNat r.inData) ∧
      (r.op.getLsbD 0 = false → ∀ l' n d, decode r ≠ unpackInstr l' n d)) ∧
    (r.op = 0xC → ∃ n expected, decode r = .chklen n expected) ∧
    (0xC < r.op.toNat → decode r = .reservedD ∨ decode r = .reservedE ∨ decode r = .reservedF)

/-- R141: the completion codes and which operations give which. -/
def Obligations.StatusCodes : Prop :=
  ∀ i s, ∃ t, exec i s = .next t ∧
    (t.rspStatus = 0 ∨ t.rspStatus = 1 ∨ t.rspStatus = 2) ∧
    (t.rspStatus = 1 ↔ (∃ l n d, i = unpackInstr l n d ∧ n ≠ frameLen l) ∨
      ∃ n expected, i = .chklen n expected ∧ n ≠ expected) ∧
    (t.rspStatus = 2 ↔ i = .reservedD ∨ i = .reservedE ∨ i = .reservedF)

/-- R142: a request that completes with an error leaves its code, INVALID_LENGTH (1) of an unpack or CHKLEN and
ILLEGAL_OP (2) of a reserved op, with `RSP_VALID` 1 and every other output 0. -/
def Obligations.ErrorOutputs : Prop :=
  ∀ i s t, exec i s = .next t → t.rspStatus ≠ 0 →
    ((t = s.withError 1 ∧ t.rspStatus = 1 ∧
        ((∃ l n d, i = unpackInstr l n d) ∨ ∃ n expected, i = .chklen n expected)) ∨
      (t = s.withError 2 ∧ t.rspStatus = 2 ∧ (i = .reservedD ∨ i = .reservedE ∨ i = .reservedF))) ∧
    t.rspValid = true ∧ t.rspLen = 0 ∧ t.rspData = ⟨0, 0, 0, 0, 0⟩ ∧ t.rspVal = 0 ∧ t.rspCtl = false

/-- 60_exceptions.md section 1: packing never fails. Every request with a pack op completes with OK, the layout's
frame length, and 0 in the lanes beyond it and in the value outputs. -/
def Obligations.PacksNeverFail : Prop :=
  ∀ lenW, ∀ r : Request lenW, ∀ s, r.op.toNat < 0xC → r.op.getLsbD 0 = false → ∃ l d,
    layoutOf (decode r) = some l ∧
    exec (decode r) s = .next (s.withFrame (BitVec.ofNat 3 (frameLen l)) d) ∧
    ∀ i, frameLen l ≤ i → d.lane i = 0

/-- R145: an error is a value. No edge stops the block, whatever state it is in, and an operation changes nothing but
the response registers, so that the next request is accepted as usual. -/
def Obligations.NothingStopsTheBlock : Prop :=
  (∀ s, ∃ t, step s = .next t ∧ t.edges = s.edges.tail) ∧
  ∀ i s, ∃ t, exec i s = .next t ∧ t.rspValid = true ∧ t.resetSeen = s.resetSeen ∧ t.edges = s.edges

/-- R21, R45: a response depends only on its own request, not on what came before; repeating a request repeats its
response; nothing else changes. -/
def Obligations.ResponseDependsOnItsRequestOnly : Prop :=
  ∀ s s' r rest rest', s.edges = Edge.request r :: rest → s'.edges = Edge.request r :: rest' →
    ∃ t t', step s = .next t ∧ step s' = .next t' ∧
      t.rspValid = true ∧ t'.rspValid = true ∧ t.rspStatus = t'.rspStatus ∧ t.rspLen = t'.rspLen ∧
      t.rspData = t'.rspData ∧ t.rspVal = t'.rspVal ∧ t.rspCtl = t'.rspCtl ∧
      t.resetSeen = s.resetSeen ∧ t.edges = rest

/-! ### Edges, reset and outputs -/

/-- R23: the step of an accepted request loads the response registers (R22) together, with `resp(req)`, the table of op
codes R61; and the meanings load them so under either `F16_ARITH` and every `LEN_W` from 3 to 32 (R8). That `exec` and
`step` are the instances of `execIn` and `Block.step` at this hardware's parameters is log 6 (DEDUCED). -/
def Obligations.AcceptedEdgeLoadsResp : Prop :=
  (∀ p : Params, p.lenW ≤ 32 → ∀ (r : Request p.lenW) (s : State),
    execIn p.f16Arith (decode r) s = .next (s.accept (resp p.f16Arith r))) ∧
  (∀ i s, exec i s = execIn Config.f16Arith i s) ∧
  (∀ s, ∃ t, step s = .next t ∧ t.toBlock = Block.step Config.params s.toBlock) ∧
  ∀ s r rest, s.edges = Edge.request r :: rest →
    step s = .next
      { s with
        rspValid := true
        rspStatus := (resp .exact r).status
        rspLen := (resp .exact r).len
        rspData := (resp .exact r).data
        rspVal := (resp .exact r).val
        rspCtl := (resp .exact r).ctl
        edges := rest }

/-- R161: at a reset edge every response register takes its reset value, and a request presented there is
discarded. -/
def Obligations.ResetEdgeWins : Prop :=
  ∀ s v r rest, s.edges = { rst := true, reqValid := v, req := r } :: rest →
    step s = .next { State.reset with edges := rest }

/-- R165: on an idle edge `RSP_VALID` becomes 0 and every other response register keeps its value. -/
def Obligations.IdleEdgeHolds : Prop :=
  ∀ s r rest, s.edges = { rst := false, reqValid := false, req := r } :: rest →
    step s = .next { s with rspValid := false, edges := rest }

/-- The MODEL'S CHOICE (log 2), no rule of the spec: with no edge listed the host presents no request. -/
def Obligations.NoEdgeListedIsIdle : Prop :=
  ∀ s, s.edges = [] → step s = .next { s with rspValid := false }

/-- R162: the reset values; before the first reset edge a read of the outputs faults, whatever requests were made, and
only a reset edge ends that. -/
def Obligations.ResetValues : Prop :=
  (State.reset.rspValid = false ∧ State.reset.rspStatus = 0 ∧ State.reset.rspLen = 0 ∧
    (∀ i, i < 5 → State.reset.rspData.lane i = 0x00) ∧ State.reset.rspVal = 0x00000000 ∧
    State.reset.rspCtl = false ∧ State.reset.resetSeen = true) ∧
  (∀ edges, (State.powerUp edges).resetSeen = false) ∧
  (∀ s : State, s.resetSeen = false → s.readOutputs = .fault .readBeforeReset) ∧
  ∀ s, ∃ t, step s = .next t ∧ t.resetSeen = (s.resetSeen || s.sampled.rst)

/-- R52: the outputs do not depend on what the request port carries; from the first reset edge on they can be read,
and they are the six response registers, in every state with legal registers: after a request, after a reset edge,
and after any number of idle edges. -/
def Obligations.OutputsAreTheRegisters : Prop :=
  (∀ (s : State) last, s.Legal last → s.resetSeen = true →
    s.readOutputs = .next ⟨s.rspValid, s.rspStatus, s.rspLen, s.rspData, s.rspVal, s.rspCtl⟩) ∧
  (∀ (s : State) last, s.Legal last → s.resetSeen = true → s.sampled.rst = false → s.sampled.reqValid = false →
    ∃ t, step s = .next t ∧
      t.readOutputs = .next ⟨false, s.rspStatus, s.rspLen, s.rspData, s.rspVal, s.rspCtl⟩) ∧
  (∀ s : State, s.sampled.rst = true → ∃ t, step s = .next t ∧
    t.readOutputs = .next ⟨false, 0, 0, ⟨0, 0, 0, 0, 0⟩, 0, false⟩) ∧
  (∀ (s : State) (edges : List Edge), ({ s with edges := edges } : State).readOutputs = s.readOutputs) ∧
  ∀ s r rest, s.resetSeen = true → s.edges = Edge.request r :: rest → ∃ t o,
    step s = .next t ∧ t.readOutputs = .next o ∧ o.valid = true ∧ o.status = t.rspStatus ∧ o.len = t.rspLen ∧
      o.data = t.rspData ∧ o.val = t.rspVal ∧ o.ctl = t.rspCtl

/-- 10_state.md section 2, the legal-value invariants (the spec's own inference): every step keeps them, and so does
every step of a block with any parameters. -/
def Obligations.LegalIsInvariant : Prop :=
  (∀ s last, s.Legal last → ∃ t, step s = .next t ∧ t.Legal (lastAccepted last s.sampled)) ∧
  ∀ (p : Params) (b : Block p) last, b.toRegisters.Legal last →
    (Block.step p b).toRegisters.Legal (lastAccepted last (nextEdge p.lenW b.edges))

/-- 10_state.md section 2: reset establishes the legal-value invariants, from any state. -/
def Obligations.ResetIsLegal : Prop :=
  State.reset.Legal none ∧ ∀ s, s.sampled.rst = true → ∃ t, step s = .next t ∧ t.Legal none

/-- A step runs the decoded instruction: with a request at the port, step is exec of what the request decodes to, on
the state with that edge consumed (log 1). The second clause is about the MODEL'S CHOICE of a byte form of a request
(log 3), which the spec does not give: where the bytes read as a request and decode to an instruction, that request
decodes to the same instruction. -/
def Obligations.StepRunsTheDecodedInstruction : Prop :=
  (∀ s r rest i, s.edges = Edge.request r :: rest → decode r = i → i.wf Config.lenW = true →
    step s = exec i { s with edges := rest }) ∧
  ∀ bs r i, requestOfBytes Config.lenW bs = .ok r → decodeBytes Config.lenW bs = .ok i → decode r = i

/-- The model's packed word (log 3, log 4): what `decodeTableWord` reads from a word is what the next step runs once
`withFetchWord` has put the word on the port. -/
def Obligations.FetchWordRunsNext : Prop :=
  ∀ (s : State) nbits w i, decodeTableWord nbits w = some i →
    step (s.withFetchWord nbits w) = exec i { s with edges := s.edges.tail }

/-! ### Encodings -/

/-- Decode and encode agree on the packed bytes (log 3), for every well-formed instruction. -/
def Obligations.DecodeEncodeBytes : Prop :=
  ∀ i : Instr, i.wf Config.lenW = true →
    (encodeBytes Config.lenW i).length = 11 ∧ decodeBytes Config.lenW (encodeBytes Config.lenW i) = .ok i

/-- The other direction: what a request decodes to is well-formed, has the request's op code, and encodes to a request
with the same read fields (R53, R56, for any `LEN_W`). That CHKLEN reads all of `arg` where `LEN_W` is above 32 is the
MODEL'S CHOICE (log 6). -/
def Obligations.EncodeDecodeRequest : Prop :=
  ∀ lenW, ∀ r : Request lenW, (decode r).wf lenW = true ∧ opcode (decode r) = r.op ∧
    readFields (encode lenW (decode r)) = readFields r ∧
    (r.op = 0xC → decode r = .chklen r.inLen.toNat (r.arg.toNat % 2 ^ lenW))

/-- The serialised form of 30_encoding.md section 7: every request's text reads back as the request. -/
def Obligations.SerialisedRoundTrip : Prop :=
  ∀ r : Request Config.lenW, parseSerial Config.lenW (serialise r) = .ok r

/-- A few words written from the op map, and what they decode to (sanity; the words are laid out as log 3 says). -/
def Obligations.KnownWordsDecode : Prop :=
  decodeTableWord 8 0x0 = some (.packBool false) ∧
  decodeTableWord 8 0x30 = some (.packBool true) ∧
  decodeTableWord 88 0x1A02000000003 = some (.unpackB3u 1 ⟨0x0D, 0, 0, 0, 0⟩) ∧
  decodeTableWord 88 0xF0AC6824000A000000007 = some (.unpackU32 5 ⟨0x00, 0x12, 0x34, 0x56, 0x78⟩) ∧
  decodeTableWord 40 0x85900000A = some (.packF16 0x42C80000) ∧
  decodeTableWord 48 0x600000006C = some (.chklen 3 3) ∧
  decodeTableWord 8 0xD = some .reservedD

/-- 41_length_validator.md, "Width of the presented length" (the spec's own inference): presenting a saturated length
changes no unpack verdict while `LEN_W >= 3`, and CHKLEN has no such guarantee for the largest length. -/
def Obligations.SaturatedLengthKeepsVerdicts : Prop :=
  (∀ lenW len, presentLen lenW len < 2 ^ lenW ∧ (len < 2 ^ lenW → presentLen lenW len = len)) ∧
  (∀ lenW len l, 3 ≤ lenW → lencheck (presentLen lenW len) (frameLen l) = lencheck len (frameLen l)) ∧
  ∀ lenW, lencheck (presentLen lenW (2 ^ lenW)) (2 ^ lenW - 1) ≠ lencheck (2 ^ lenW) (2 ^ lenW - 1)
end

