-- ==== Sys2Proof/Laws/State.lean ====
section
/-! SUPPORT. One lemma per field per state update, true by rfl, so that no later proof unfolds a record update. -/

namespace Sys2Proof.Machine

@[simp] theorem State.accept_rspValid (s : State) (r : Response) : (s.accept r).rspValid = true := rfl
@[simp] theorem State.accept_rspStatus (s : State) (r : Response) : (s.accept r).rspStatus = r.status := rfl
@[simp] theorem State.accept_rspLen (s : State) (r : Response) : (s.accept r).rspLen = r.len := rfl
@[simp] theorem State.accept_rspData (s : State) (r : Response) : (s.accept r).rspData = r.data := rfl
@[simp] theorem State.accept_rspVal (s : State) (r : Response) : (s.accept r).rspVal = r.val := rfl
@[simp] theorem State.accept_rspCtl (s : State) (r : Response) : (s.accept r).rspCtl = r.ctl := rfl
@[simp] theorem State.accept_resetSeen (s : State) (r : Response) : (s.accept r).resetSeen = s.resetSeen := rfl
@[simp] theorem State.accept_edges (s : State) (r : Response) : (s.accept r).edges = s.edges := rfl

@[simp] theorem State.raise_rspValid (s : State) (x : Raise) : (s.raise x).rspValid = true := rfl
@[simp] theorem State.raise_rspStatus (s : State) (x : Raise) : (s.raise x).rspStatus = statusOf x := rfl
@[simp] theorem State.raise_rspLen (s : State) (x : Raise) : (s.raise x).rspLen = 0 := rfl
@[simp] theorem State.raise_rspData (s : State) (x : Raise) : (s.raise x).rspData = Lanes.zero := rfl
@[simp] theorem State.raise_rspVal (s : State) (x : Raise) : (s.raise x).rspVal = 0 := rfl
@[simp] theorem State.raise_rspCtl (s : State) (x : Raise) : (s.raise x).rspCtl = false := rfl
@[simp] theorem State.raise_resetSeen (s : State) (x : Raise) : (s.raise x).resetSeen = s.resetSeen := rfl
@[simp] theorem State.raise_edges (s : State) (x : Raise) : (s.raise x).edges = s.edges := rfl

@[simp] theorem State.idle_rspValid (s : State) : (s.idle).rspValid = false := rfl
@[simp] theorem State.idle_rspStatus (s : State) : (s.idle).rspStatus = s.rspStatus := rfl
@[simp] theorem State.idle_rspLen (s : State) : (s.idle).rspLen = s.rspLen := rfl
@[simp] theorem State.idle_rspData (s : State) : (s.idle).rspData = s.rspData := rfl
@[simp] theorem State.idle_rspVal (s : State) : (s.idle).rspVal = s.rspVal := rfl
@[simp] theorem State.idle_rspCtl (s : State) : (s.idle).rspCtl = s.rspCtl := rfl
@[simp] theorem State.idle_resetSeen (s : State) : (s.idle).resetSeen = s.resetSeen := rfl
@[simp] theorem State.idle_edges (s : State) : (s.idle).edges = s.edges := rfl

@[simp] theorem State.resetEdge_rspValid (s : State) : (s.resetEdge).rspValid = false := rfl
@[simp] theorem State.resetEdge_rspStatus (s : State) : (s.resetEdge).rspStatus = 0 := rfl
@[simp] theorem State.resetEdge_rspLen (s : State) : (s.resetEdge).rspLen = 0 := rfl
@[simp] theorem State.resetEdge_rspData (s : State) : (s.resetEdge).rspData = Lanes.zero := rfl
@[simp] theorem State.resetEdge_rspVal (s : State) : (s.resetEdge).rspVal = 0 := rfl
@[simp] theorem State.resetEdge_rspCtl (s : State) : (s.resetEdge).rspCtl = false := rfl
@[simp] theorem State.resetEdge_resetSeen (s : State) : (s.resetEdge).resetSeen = true := rfl
@[simp] theorem State.resetEdge_edges (s : State) : (s.resetEdge).edges = s.edges := rfl

@[simp] theorem State.pastEdge_rspValid (s : State) : (s.pastEdge).rspValid = s.rspValid := rfl
@[simp] theorem State.pastEdge_rspStatus (s : State) : (s.pastEdge).rspStatus = s.rspStatus := rfl
@[simp] theorem State.pastEdge_rspLen (s : State) : (s.pastEdge).rspLen = s.rspLen := rfl
@[simp] theorem State.pastEdge_rspData (s : State) : (s.pastEdge).rspData = s.rspData := rfl
@[simp] theorem State.pastEdge_rspVal (s : State) : (s.pastEdge).rspVal = s.rspVal := rfl
@[simp] theorem State.pastEdge_rspCtl (s : State) : (s.pastEdge).rspCtl = s.rspCtl := rfl
@[simp] theorem State.pastEdge_resetSeen (s : State) : (s.pastEdge).resetSeen = s.resetSeen := rfl
@[simp] theorem State.pastEdge_edges (s : State) : (s.pastEdge).edges = s.edges.tail := rfl

@[simp] theorem State.withFrame_rspValid (s : State) (len : BitVec 3) (d : Lanes) : (s.withFrame len d).rspValid = true := rfl
@[simp] theorem State.withFrame_rspStatus (s : State) (len : BitVec 3) (d : Lanes) : (s.withFrame len d).rspStatus = 0 := rfl
@[simp] theorem State.withFrame_rspLen (s : State) (len : BitVec 3) (d : Lanes) : (s.withFrame len d).rspLen = len := rfl
@[simp] theorem State.withFrame_rspData (s : State) (len : BitVec 3) (d : Lanes) : (s.withFrame len d).rspData = d := rfl
@[simp] theorem State.withFrame_rspVal (s : State) (len : BitVec 3) (d : Lanes) : (s.withFrame len d).rspVal = 0 := rfl
@[simp] theorem State.withFrame_rspCtl (s : State) (len : BitVec 3) (d : Lanes) : (s.withFrame len d).rspCtl = false := rfl
@[simp] theorem State.withFrame_resetSeen (s : State) (len : BitVec 3) (d : Lanes) : (s.withFrame len d).resetSeen = s.resetSeen := rfl
@[simp] theorem State.withFrame_edges (s : State) (len : BitVec 3) (d : Lanes) : (s.withFrame len d).edges = s.edges := rfl

@[simp] theorem State.withValue_rspValid (s : State) (v : Word) (c : Bool) : (s.withValue v c).rspValid = true := rfl
@[simp] theorem State.withValue_rspStatus (s : State) (v : Word) (c : Bool) : (s.withValue v c).rspStatus = 0 := rfl
@[simp] theorem State.withValue_rspLen (s : State) (v : Word) (c : Bool) : (s.withValue v c).rspLen = 0 := rfl
@[simp] theorem State.withValue_rspData (s : State) (v : Word) (c : Bool) : (s.withValue v c).rspData = Lanes.zero := rfl
@[simp] theorem State.withValue_rspVal (s : State) (v : Word) (c : Bool) : (s.withValue v c).rspVal = v := rfl
@[simp] theorem State.withValue_rspCtl (s : State) (v : Word) (c : Bool) : (s.withValue v c).rspCtl = c := rfl
@[simp] theorem State.withValue_resetSeen (s : State) (v : Word) (c : Bool) : (s.withValue v c).resetSeen = s.resetSeen := rfl
@[simp] theorem State.withValue_edges (s : State) (v : Word) (c : Bool) : (s.withValue v c).edges = s.edges := rfl

@[simp] theorem State.withError_rspValid (s : State) (code : BitVec 2) : (s.withError code).rspValid = true := rfl
@[simp] theorem State.withError_rspStatus (s : State) (code : BitVec 2) : (s.withError code).rspStatus = code := rfl
@[simp] theorem State.withError_rspLen (s : State) (code : BitVec 2) : (s.withError code).rspLen = 0 := rfl
@[simp] theorem State.withError_rspData (s : State) (code : BitVec 2) : (s.withError code).rspData = Lanes.zero := rfl
@[simp] theorem State.withError_rspVal (s : State) (code : BitVec 2) : (s.withError code).rspVal = 0 := rfl
@[simp] theorem State.withError_rspCtl (s : State) (code : BitVec 2) : (s.withError code).rspCtl = false := rfl
@[simp] theorem State.withError_resetSeen (s : State) (code : BitVec 2) : (s.withError code).resetSeen = s.resetSeen := rfl
@[simp] theorem State.withError_edges (s : State) (code : BitVec 2) : (s.withError code).edges = s.edges := rfl

@[simp] theorem Registers.accept_rspValid (g : Registers) (r : Response) : (g.accept r).rspValid = true := rfl
@[simp] theorem Registers.accept_rspStatus (g : Registers) (r : Response) : (g.accept r).rspStatus = r.status := rfl
@[simp] theorem Registers.accept_rspLen (g : Registers) (r : Response) : (g.accept r).rspLen = r.len := rfl
@[simp] theorem Registers.accept_rspData (g : Registers) (r : Response) : (g.accept r).rspData = r.data := rfl
@[simp] theorem Registers.accept_rspVal (g : Registers) (r : Response) : (g.accept r).rspVal = r.val := rfl
@[simp] theorem Registers.accept_rspCtl (g : Registers) (r : Response) : (g.accept r).rspCtl = r.ctl := rfl
@[simp] theorem Registers.accept_resetSeen (g : Registers) (r : Response) : (g.accept r).resetSeen = g.resetSeen := rfl

@[simp] theorem Registers.idle_rspValid (g : Registers) : g.idle.rspValid = false := rfl
@[simp] theorem Registers.idle_rspStatus (g : Registers) : g.idle.rspStatus = g.rspStatus := rfl
@[simp] theorem Registers.idle_rspLen (g : Registers) : g.idle.rspLen = g.rspLen := rfl
@[simp] theorem Registers.idle_rspData (g : Registers) : g.idle.rspData = g.rspData := rfl
@[simp] theorem Registers.idle_rspVal (g : Registers) : g.idle.rspVal = g.rspVal := rfl
@[simp] theorem Registers.idle_rspCtl (g : Registers) : g.idle.rspCtl = g.rspCtl := rfl
@[simp] theorem Registers.idle_resetSeen (g : Registers) : g.idle.resetSeen = g.resetSeen := rfl

@[simp] theorem Registers.afterReset_rspValid : Registers.afterReset.rspValid = false := rfl
@[simp] theorem Registers.afterReset_rspStatus : Registers.afterReset.rspStatus = 0 := rfl
@[simp] theorem Registers.afterReset_rspLen : Registers.afterReset.rspLen = 0 := rfl
@[simp] theorem Registers.afterReset_rspData : Registers.afterReset.rspData = Lanes.zero := rfl
@[simp] theorem Registers.afterReset_rspVal : Registers.afterReset.rspVal = 0 := rfl
@[simp] theorem Registers.afterReset_rspCtl : Registers.afterReset.rspCtl = false := rfl
@[simp] theorem Registers.afterReset_resetSeen : Registers.afterReset.resetSeen = true := rfl

@[simp] theorem State.accept_toRegisters (s : State) (r : Response) : (s.accept r).toRegisters = s.toRegisters.accept r := rfl
@[simp] theorem State.idle_toRegisters (s : State) : (s.idle).toRegisters = s.toRegisters.idle := rfl
@[simp] theorem State.resetEdge_toRegisters (s : State) : s.resetEdge.toRegisters = Registers.afterReset := rfl
@[simp] theorem State.pastEdge_toRegisters (s : State) : s.pastEdge.toRegisters = s.toRegisters := rfl

/-- Two states are equal when their fields are. -/
theorem State.ext_fields {s t : State} (h1 : s.rspValid = t.rspValid) (h2 : s.rspStatus = t.rspStatus)
    (h3 : s.rspLen = t.rspLen) (h4 : s.rspData = t.rspData) (h5 : s.rspVal = t.rspVal) (h6 : s.rspCtl = t.rspCtl)
    (h7 : s.resetSeen = t.resetSeen) (h8 : s.edges = t.edges) : s = t := by
  obtain ⟨⟨⟩, _⟩ := s; obtain ⟨⟨⟩, _⟩ := t; simp_all

/-- A reset edge leaves the reset state, with the host's coming edges as they were. -/
theorem State.resetEdge_eq (s : State) : s.resetEdge = { State.reset with edges := s.edges } := rfl

end Sys2Proof.Machine
end

