-- ==== Sys2Proof/Laws/Ops.lean ====
section
/-! SUPPORT. What each shared operation can do, said once. -/

namespace Sys2Proof.Machine

/-- The length check on equal lengths (R76). -/
@[simp] theorem lencheck_self (n : Nat) : lencheck n n = .ok () := by simp [lencheck]

/-- The length check on different lengths (R76). -/
theorem lencheck_ne {n expected : Nat} (h : n ≠ expected) : lencheck n expected = .error .invalidLength := by
  simp [lencheck, h]

/-- A length check before a result: the result on equal lengths, InvalidLength otherwise. -/
theorem lencheck_bind {α : Type} (n expected : Nat) (k : Unit → Except Raise α) :
    (lencheck n expected >>= k) = if n = expected then k () else .error .invalidLength := by
  by_cases h : n = expected <;> simp [lencheck, h, bind, Except.bind]

@[simp] theorem complete_ok (s : State) (r : Response) : s.complete (.ok r) = s.accept r := rfl

@[simp] theorem complete_error (s : State) (x : Raise) : s.complete (.error x) = s.raise x := rfl

/-- Completing is accepting the response of the result (R61). -/
theorem complete_eq (s : State) (r : Except Raise Response) : s.complete r = s.accept (responseOf r) := by
  cases r <;> rfl

theorem raise_eq_withError (s : State) (x : Raise) : s.raise x = s.withError (statusOf x) := rfl

theorem accept_okFrame (s : State) (f : Frame) :
    s.accept (okFrame f) = s.withFrame (BitVec.ofNat 3 f.length) (lanesOfFrame f) := rfl

theorem accept_okValue (s : State) (v : Word) (c : Bool) : s.accept (okValue v c) = s.withValue v c := rfl

/-- Completing a length-checked value. -/
theorem complete_checked {α : Type} (s : State) (n expected : Nat) (k : Except Raise α) (g : α → Response) :
    s.complete (do let v ← (do lencheck n expected; k); return g v) =
      if n = expected then s.complete (do let v ← k; return g v) else s.withError 1 := by
  by_cases h : n = expected <;> simp [lencheck, h, bind, Except.bind, raise_eq_withError, statusOf, statusInvalidLength]

/-- Reading the outputs, case by case (R52, R162, I12, I13). -/
theorem readOutputs_before_reset {s : State} (h : s.resetSeen = false) :
    s.readOutputs = .fault .readBeforeReset := by simp [State.readOutputs, Registers.readOutputs, h]

theorem readOutputs_legal {s : State} (h : s.resetSeen = true) (h3 : s.rspStatus ≠ 3)
    (hl : legalLength s.rspLen = true) :
    s.readOutputs = .next ⟨s.rspValid, s.rspStatus, s.rspLen, s.rspData, s.rspVal, s.rspCtl⟩ := by
  rw [State.readOutputs, Registers.readOutputs, if_neg (by simp [h]), if_neg h3, if_neg (by simp [hl])]

/-- What a step does, by the edge it samples (R23). -/
theorem step_reset {s : State} (h : s.sampled.rst = true) : step s = .next s.pastEdge.resetEdge := by
  simp [step, h]

theorem step_request {s : State} (h : s.sampled.rst = false) (h' : s.sampled.reqValid = true) :
    step s = exec (decode s.sampled.req) s.pastEdge := by simp [step, h, h']

theorem step_idle {s : State} (h : s.sampled.rst = false) (h' : s.sampled.reqValid = false) :
    step s = .next s.pastEdge.idle := by simp [step, h, h']

theorem sampled_cons {s : State} {e : Edge} {rest : List Edge} (h : s.edges = e :: rest) : s.sampled = e := by
  simp [State.sampled, nextEdge, h]

theorem pastEdge_cons {s : State} {e : Edge} {rest : List Edge} (h : s.edges = e :: rest) :
    s.pastEdge = { s with edges := rest } := by simp [State.pastEdge, h]

/-- Saturation keeps the field's range (R79). -/
theorem presentLen_lt (lenW len : Nat) : presentLen lenW len < 2 ^ lenW := by
  have := Nat.two_pow_pos lenW
  simp only [presentLen]; omega

end Sys2Proof.Machine
end

