-- ==== Sys2Proof/Laws/Exec.lean ====
section
/-! SUPPORT. What each meaning answers, as one equation over the shared operations; the length check is decided here,
so that later proofs do not unfold a meaning. -/

namespace Sys2Proof.Machine

theorem unpackBool_eq (n : Nat) (d : Lanes) :
    unpackBool n d = if n = 1 then .ok (d.d0 &&& 0x01 == 0x01) else .error .invalidLength :=
  lencheck_bind n 1 _

theorem unpackB3u_eq (n : Nat) (d : Lanes) :
    unpackB3u n d = if n = 1 then .ok (d.d0.getLsbD 3, d.d0.extractLsb' 0 3) else .error .invalidLength :=
  lencheck_bind n 1 _

theorem unpackU8_eq (n : Nat) (d : Lanes) :
    unpackU8 n d = if n = 2 then .ok d.d1 else .error .invalidLength := lencheck_bind n 2 _

theorem unpackU32_eq (n : Nat) (d : Lanes) :
    unpackU32 n d = if n = 5 then .ok (wordOfLanes d) else .error .invalidLength := lencheck_bind n 5 _

theorem unpackS32_eq (n : Nat) (d : Lanes) :
    unpackS32 n d = if n = 5 then .ok (s32 (wordOfLanes d)) else .error .invalidLength := lencheck_bind n 5 _

theorem unpackF16_eq (mode : F16Arith) (n : Nat) (d : Lanes) :
    unpackF16 mode n d =
      if n = 3 then .ok (decodeReal mode (f16Mantissa d) (f16Exponent d)) else .error .invalidLength :=
  lencheck_bind n 3 _

theorem chklen_eq (n expected : Nat) :
    chklen n expected = if n = expected then .ok (okValue 0 false) else .error .invalidLength :=
  lencheck_bind n expected _

theorem execPackBool_eq (b : Bool) (s : State) :
    exec (.packBool b) s = .next (s.withFrame 1 (lanesOfFrame (packBool b))) := rfl

theorem execPackB3u_eq (control : Bool) (value : Word) (s : State) :
    exec (.packB3u control value) s = .next (s.withFrame 1 (lanesOfFrame (packB3u control value))) := rfl

theorem execPackU8_eq (v : Byte) (s : State) : exec (.packU8 v) s = .next (s.withFrame 2 ⟨0, v, 0, 0, 0⟩) := rfl

theorem execPackU32_eq (w : Word) (s : State) : exec (.packU32 w) s =
    .next (s.withFrame 5 ⟨0, wordByte w 1, wordByte w 2, wordByte w 3, wordByte w 4⟩) := rfl

theorem execPackS32_eq (i : Int) (s : State) : exec (.packS32 i) s = exec (.packU32 (u32 i)) s := rfl

/-- Every frame PACK.F16 gives has three bytes, the first 0 (R117, R128). -/
theorem packF16_shape (mode : F16Arith) (x : Word) : ∃ b1 b2, packF16 mode x = [0x00, b1, b2] := by
  unfold packF16
  split <;> exact ⟨_, _, rfl⟩

theorem execPackF16_eq (x : Word) (s : State) :
    exec (.packF16 x) s = .next (s.withFrame 3 (lanesOfFrame (packF16 .exact x))) := by
  obtain ⟨b1, b2, h⟩ := packF16_shape .exact x
  simp only [exec, execPackF16, execPackF16In, Config.f16Arith, accept_okFrame, h]; rfl

theorem execUnpackBool_eq (n : Nat) (d : Lanes) (s : State) : exec (.unpackBool n d) s =
    .next (if n = 1 then s.withValue (zextBit (d.d0 &&& 0x01 == 0x01)) false else s.withError 1) := by
  by_cases h : n = 1 <;>
    simp [exec, execUnpackBool, unpackBool_eq, h, bind, Except.bind, pure, Except.pure, accept_okValue,
      raise_eq_withError, statusOf, statusInvalidLength]

theorem execUnpackB3u_eq (n : Nat) (d : Lanes) (s : State) : exec (.unpackB3u n d) s =
    .next (if n = 1 then s.withValue (zext32 3 (d.d0.extractLsb' 0 3)) (d.d0.getLsbD 3) else s.withError 1) := by
  by_cases h : n = 1 <;>
    simp [exec, execUnpackB3u, unpackB3u_eq, h, bind, Except.bind, pure, Except.pure, accept_okValue,
      raise_eq_withError, statusOf, statusInvalidLength]

theorem execUnpackU8_eq (n : Nat) (d : Lanes) (s : State) : exec (.unpackU8 n d) s =
    .next (if n = 2 then s.withValue (zext32 8 d.d1) false else s.withError 1) := by
  by_cases h : n = 2 <;>
    simp [exec, execUnpackU8, unpackU8_eq, h, bind, Except.bind, pure, Except.pure, accept_okValue,
      raise_eq_withError, statusOf, statusInvalidLength]

theorem execUnpackU32_eq (n : Nat) (d : Lanes) (s : State) : exec (.unpackU32 n d) s =
    .next (if n = 5 then s.withValue (wordOfLanes d) false else s.withError 1) := by
  by_cases h : n = 5 <;>
    simp [exec, execUnpackU32, unpackU32_eq, h, bind, Except.bind, pure, Except.pure, accept_okValue,
      raise_eq_withError, statusOf, statusInvalidLength]

theorem execUnpackS32_eq (n : Nat) (d : Lanes) (s : State) : exec (.unpackS32 n d) s =
    .next (if n = 5 then s.withValue (u32 (s32 (wordOfLanes d))) false else s.withError 1) := by
  by_cases h : n = 5 <;>
    simp [exec, execUnpackS32, unpackS32_eq, h, bind, Except.bind, pure, Except.pure, accept_okValue,
      raise_eq_withError, statusOf, statusInvalidLength]

theorem execUnpackF16_eq (n : Nat) (d : Lanes) (s : State) : exec (.unpackF16 n d) s =
    .next (if n = 3 then s.withValue (rne32 (f16Value (f16Mantissa d) (f16Exponent d))) false
      else s.withError 1) := by
  by_cases h : n = 3 <;>
    simp [exec, execUnpackF16, execUnpackF16In, unpackF16_eq, Config.f16Arith, decodeReal, h, bind, Except.bind, pure, Except.pure,
      accept_okValue, raise_eq_withError, statusOf, statusInvalidLength]

theorem execChklen_eq (n expected : Nat) (s : State) : exec (.chklen n expected) s =
    .next (if n = expected then s.withValue 0 false else s.withError 1) := by
  by_cases h : n = expected <;>
    simp [exec, execChklen, chklen_eq, h, accept_okValue, raise_eq_withError, statusOf, statusInvalidLength]

/-- A length-checked result has one of two of the shapes below. -/
theorem checked_cases (p : Prop) [Decidable p] (v : Word) (c : Bool) (s : State) :
    (∃ len d, (.next (if p then s.withValue v c else s.withError 1) : Host.Outcome State Fault Refusal) =
      .next (s.withFrame len d)) ∨
    (∃ v' c', (.next (if p then s.withValue v c else s.withError 1) : Host.Outcome State Fault Refusal) =
      .next (s.withValue v' c')) ∨
    (.next (if p then s.withValue v c else s.withError 1) : Host.Outcome State Fault Refusal) =
      .next (s.withError 1) ∨
    (.next (if p then s.withValue v c else s.withError 1) : Host.Outcome State Fault Refusal) =
      .next (s.withError 2) := by
  by_cases h : p
  · exact .inr (.inl ⟨v, c, by rw [if_pos h]⟩)
  · exact .inr (.inr (.inl (by rw [if_neg h])))

/-- The four shapes of a next state: every meaning answers one of them. -/
theorem exec_cases (i : Instr) (s : State) :
    (∃ len d, exec i s = .next (s.withFrame len d)) ∨ (∃ v c, exec i s = .next (s.withValue v c)) ∨
      exec i s = .next (s.withError 1) ∨ exec i s = .next (s.withError 2) := by
  cases i with
  | packBool b => exact .inl ⟨_, _, execPackBool_eq b s⟩
  | packB3u c v => exact .inl ⟨_, _, execPackB3u_eq c v s⟩
  | packU8 v => exact .inl ⟨_, _, execPackU8_eq v s⟩
  | packU32 w => exact .inl ⟨_, _, execPackU32_eq w s⟩
  | packS32 v => exact .inl ⟨_, _, execPackU32_eq (u32 v) s⟩
  | packF16 x => exact .inl ⟨_, _, execPackF16_eq x s⟩
  | unpackBool n d => rw [execUnpackBool_eq]; exact checked_cases _ _ _ s
  | unpackB3u n d => rw [execUnpackB3u_eq]; exact checked_cases _ _ _ s
  | unpackU8 n d => rw [execUnpackU8_eq]; exact checked_cases _ _ _ s
  | unpackU32 n d => rw [execUnpackU32_eq]; exact checked_cases _ _ _ s
  | unpackS32 n d => rw [execUnpackS32_eq]; exact checked_cases _ _ _ s
  | unpackF16 n d => rw [execUnpackF16_eq]; exact checked_cases _ _ _ s
  | chklen n e => rw [execChklen_eq]; exact checked_cases _ _ _ s
  | reservedD => exact .inr (.inr (.inr rfl))
  | reservedE => exact .inr (.inr (.inr rfl))
  | reservedF => exact .inr (.inr (.inr rfl))

end Sys2Proof.Machine
end

