-- ==== Sys2Proof/Laws/Block.lean ====
section
/-! SUPPORT. The block with its parameters as arguments: what one of its edges does, and what the Float16 pair answers
in either `F16_ARITH`. -/

namespace Sys2Proof.Machine

@[simp] theorem State.toBlock_toRegisters (s : State) : s.toBlock.toRegisters = s.toRegisters := rfl
@[simp] theorem State.toBlock_edges (s : State) : s.toBlock.edges = s.edges := rfl

@[simp] theorem Block.step_toRegisters (p : Params) (b : Block p) :
    (Block.step p b).toRegisters = b.toRegisters.atEdge p (nextEdge p.lenW b.edges) := rfl
@[simp] theorem Block.step_edges (p : Params) (b : Block p) : (Block.step p b).edges = b.edges.tail := rfl

/-- The update rule by the kind of edge (R23). -/
theorem Registers.atEdge_reset {p : Params} {e : EdgeOf p.lenW} (g : Registers) (h : e.rst = true) :
    g.atEdge p e = Registers.afterReset := by simp [Registers.atEdge, h]

theorem Registers.atEdge_request {p : Params} {e : EdgeOf p.lenW} (g : Registers) (h : e.rst = false)
    (h' : e.reqValid = true) : g.atEdge p e = g.accept (resp p.f16Arith e.req) := by simp [Registers.atEdge, h, h']

theorem Registers.atEdge_idle {p : Params} {e : EdgeOf p.lenW} (g : Registers) (h : e.rst = false)
    (h' : e.reqValid = false) : g.atEdge p e = g.idle := by simp [Registers.atEdge, h, h']

/-- PACK.F16 in either `F16_ARITH` (R118, R119). -/
theorem execIn_packF16_eq (mode : F16Arith) (x : Word) (s : State) :
    execIn mode (.packF16 x) s = .next (s.withFrame 3 (lanesOfFrame (packF16 mode x))) := by
  obtain ⟨b1, b2, h⟩ := packF16_shape mode x
  simp only [execIn, execPackF16In, accept_okFrame, h]; rfl

/-- UNPACK.F16 in either `F16_ARITH` (R121, R122). -/
theorem execIn_unpackF16_eq (mode : F16Arith) (n : Nat) (d : Lanes) (s : State) :
    execIn mode (.unpackF16 n d) s =
      .next (if n = 3 then s.withValue (decodeReal mode (f16Mantissa d) (f16Exponent d)) false
        else s.withError 1) := by
  by_cases h : n = 3 <;>
    simp [execIn, execUnpackF16In, unpackF16_eq, h, bind, Except.bind, pure, Except.pure, accept_okValue,
      raise_eq_withError, statusOf, statusInvalidLength]

/-- What `responseOf` answers: the result, or the error outputs of what was raised. -/
theorem responseOf_cases (r : Except Raise Response) :
    (∃ v, r = .ok v ∧ responseOf r = v) ∨ ∃ x, r = .error x ∧ responseOf r = errResponse x := by
  cases r with
  | ok v => exact .inl ⟨v, rfl, rfl⟩
  | error x => exact .inr ⟨x, rfl, rfl⟩

end Sys2Proof.Machine
end

