-- ==== Sys2Proof/Laws/Operands.lean ====
section
/-! SUPPORT. Operand formation and its inverses. -/

namespace Sys2Proof.Machine

theorem s32_eq_toInt (w : Word) : s32 w = w.toInt := by
  rw [s32, BitVec.toInt_eq_msb_cond, BitVec.msb_eq_getLsbD_last]; rfl

theorem u32_s32 (w : Word) : u32 (s32 w) = w := by rw [s32_eq_toInt, u32, BitVec.ofInt_toInt]

theorem s32_u32 {i : Int} (h : -(2 ^ 31) ≤ i) (h' : i < 2 ^ 31) : s32 (u32 i) = i := by
  rw [s32_eq_toInt, u32, BitVec.toInt_ofInt]
  exact Int.bmod_eq_of_le (by omega) (by omega)

theorem s32_bounds (w : Word) : -(2 ^ 31) ≤ s32 w ∧ s32 w < 2 ^ 31 := by
  rw [s32_eq_toInt]
  have h1 := BitVec.le_toInt w
  have h2 := BitVec.toInt_lt (x := w)
  constructor <;> simpa using by assumption

theorem argBit_zextBit (b : Bool) : argBit (zextBit b) = b := by cases b <;> rfl

theorem argByte_zext32 (v : Byte) : argByte (zext32 8 v) = v := by
  ext i hi; simp [argByte, zext32, hi]; omega

theorem argLength_lt (lenW : Nat) (arg : Word) : argLength lenW arg < 2 ^ lenW :=
  Nat.mod_lt _ (Nat.two_pow_pos lenW)

theorem argLength_ofNat {lenW n : Nat} (h : n < 2 ^ lenW) (h32 : lenW ≤ 32) :
    argLength lenW (BitVec.ofNat 32 n) = n := by
  have : 2 ^ lenW ≤ 2 ^ 32 := Nat.pow_le_pow_right (by omega) h32
  rw [argLength, BitVec.toNat_ofNat, Nat.mod_eq_of_lt (a := n) (b := 2 ^ 32) (by omega), Nat.mod_eq_of_lt h]

theorem wordOfLanes_wordBytes (w : Word) (h : Byte) :
    wordOfLanes ⟨h, wordByte w 1, wordByte w 2, wordByte w 3, wordByte w 4⟩ = w := by
  apply BitVec.eq_of_toNat_eq
  simp only [wordOfLanes, wordByte, BitVec.toNat_append, BitVec.extractLsb'_toNat, Nat.shiftRight_eq_div_pow]
  have := w.isLt
  rw [← Nat.shiftLeft_add_eq_or_of_lt (by omega), ← Nat.shiftLeft_add_eq_or_of_lt (by omega),
    ← Nat.shiftLeft_add_eq_or_of_lt (by omega)]
  simp only [Nat.shiftLeft_eq]
  omega

end Sys2Proof.Machine
end

