-- ==== Sys2Proof/Laws/Decode.lean ====
section
/-! SUPPORT. The decoder on encoded requests, and the bytes of a number. -/

namespace Sys2Proof

open Sys2Proof.Machine

theorem toNat_ofNat_fits {lenW n : Nat} (h : fitsLength lenW n = true) : (BitVec.ofNat lenW n).toNat = n := by
  rw [BitVec.toNat_ofNat]; exact Nat.mod_eq_of_lt (by simpa [fitsLength] using h)

theorem bytesOfNat_length (count w : Nat) : (bytesOfNat count w).length = count := by
  induction count generalizing w with
  | zero => rfl
  | succ k ih => simp [bytesOfNat, ih]

/-- The bytes of a number below `256 ^ count` are the number's. -/
theorem natOfBytes_bytesOfNat (count w : Nat) : natOfBytes (bytesOfNat count w) = w % 256 ^ count := by
  induction count generalizing w with
  | zero => simp [bytesOfNat, natOfBytes, Nat.mod_one]
  | succ k ih =>
    simp only [bytesOfNat, natOfBytes, ih, BitVec.toNat_ofNat]
    rw [show 256 ^ (k + 1) = 256 * 256 ^ k from Nat.pow_succ', Nat.mod_mul]

/-- Decoding what the encoder writes, by the op code of the request. -/
theorem decode_unpackRequest {lenW n : Nat} (l : Layout) (d : Lanes) (h : fitsLength lenW n = true) :
    decode (unpackRequest lenW (opcode (unpackInstr l n d)) n d) = unpackInstr l n d := by
  have := toNat_ofNat_fits h
  cases l <;> simp [decode, unpackRequest, blankRequest, opcode, unpackInstr, this]

/-- The decoder does not look past the request's fields: equal fields, equal instruction. -/
theorem decode_eq_of_fields {lenW : Nat} {r r' : Request lenW} (hop : r.op = r'.op) (hctl : r.inCtl = r'.inCtl)
    (harg : r.arg = r'.arg) (hlen : r.inLen = r'.inLen) (hdata : r.inData = r'.inData) : decode r = decode r' := by
  cases r; cases r'; simp_all

end Sys2Proof
end

