-- ==== Sys2Proof/Laws/Float.lean ====
section
/-! SUPPORT. What the numeric primitives and the steps of the Float16 codec can do, said once. -/

namespace Sys2Proof.Machine

theorem trunc_of_nonneg {q : ℚ} (h : 0 ≤ q) : trunc q = ⌊q⌋ := if_pos h

theorem trunc_of_neg {q : ℚ} (h : q < 0) : trunc q = ⌈q⌉ := if_neg (not_le.mpr h)

/-- Truncation toward zero is symmetric. -/
theorem trunc_neg (q : ℚ) : trunc (-q) = -trunc q := by
  rcases lt_trichotomy q 0 with h | h | h
  · rw [trunc_of_neg h, trunc_of_nonneg (by linarith), Int.floor_neg]
  · subst h; simp [trunc]
  · rw [trunc_of_nonneg h.le, trunc_of_neg (by linarith), Int.ceil_neg]

theorem trunc_intCast (m : Int) : trunc (m : ℚ) = m := by simp [trunc]

/-- The clamp, case by case (R112, R119). -/
theorem clampF_above {mode : F16Arith} {x : ℚ} (h : clampUpper mode < x) : clampF mode x = clampUpper mode := if_pos h

theorem clampF_below {mode : F16Arith} {x : ℚ} (h : x ≤ clampUpper mode) (h' : x < clampLower mode) :
    clampF mode x = clampLower mode := by rw [clampF, if_neg (not_lt.mpr h), if_pos h']

theorem clampF_inside {mode : F16Arith} {x : ℚ} (h : x ≤ clampUpper mode) (h' : clampLower mode ≤ x) :
    clampF mode x = x := by rw [clampF, if_neg (not_lt.mpr h), if_neg (not_lt.mpr h')]

theorem inMantissaRange_iff (m : Int) : inMantissaRange m = true ↔ -2048 ≤ m ∧ m ≤ 2047 := by
  simp [inMantissaRange]

/-- One turn of the renormalisation loop (R114). -/
theorem renorm_inside {k e : Nat} {m : Int} (h : inMantissaRange m = true) : renorm k m e = (m, e) := by
  cases k with
  | zero => rfl
  | succ k => exact if_pos h

theorem renorm_outside {k e : Nat} {m : Int} (h : inMantissaRange m = false) :
    renorm (k + 1) m e = renorm k (tdiv2 m) (e + 1) := if_neg (by simp [h])

/-- PACK.F16 by the class of its input (R118). -/
theorem packF16_nan {mode : F16Arith} {x : Word} (h : isNaN x = true) : packF16 mode x = [0x00, 0x7F, 0xFF] := by
  simp [packF16, classify, h]

theorem classify_finite {x : Word} (h : isFinite x = true) : classify x = .finite (val32 x) := by
  have hne : expField x ≠ 0xFF := by simpa [isFinite] using h
  have h1 : x ≠ 0x7F800000 := by rintro rfl; exact hne (by decide)
  have h2 : x ≠ 0xFF800000 := by rintro rfl; exact hne (by decide)
  rw [classify, if_neg (by simp [isNaN, hne]), if_neg h1, if_neg h2]

theorem packF16_finite {mode : F16Arith} {x : Word} (h : isFinite x = true) :
    packF16 mode x = packReal mode (val32 x) := by simp [packF16, classify_finite h]

/-- `rne32`, by the sign of its operand (R13). -/
theorem rne32_zero : rne32 0 = 0 := by simp [rne32]

theorem rne32_of_pos {q : ℚ} (h : 0 < q) : rne32 q = BitVec.ofNat 32 (roundMagnitude q) := by
  simp [rne32, h, h.ne']

theorem rne32_of_neg {q : ℚ} (h : q < 0) : rne32 q = BitVec.ofNat 32 (2 ^ 31 + roundMagnitude (-q)) := by
  simp [rne32, h.ne, not_lt.mpr h.le]

/-- The magnitude never exceeds the bits of infinity, so that the sign bit stays clear of it. -/
theorem roundMagnitude_le (q : ℚ) : roundMagnitude q ≤ 0x7F800000 := min_le_right _ _

/-- Rounding half to even is within half a unit. -/
theorem roundHalfEven_error {q : ℚ} (h : 0 ≤ q) : |q - roundHalfEven q| ≤ 1 / 2 := by
  have hf : 0 ≤ ⌊q⌋ := Int.floor_nonneg.mpr h
  have hcast : ((⌊q⌋.toNat : Nat) : ℚ) = (⌊q⌋ : ℚ) := by
    have : ((⌊q⌋.toNat : Nat) : ℤ) = ⌊q⌋ := Int.toNat_of_nonneg hf
    exact_mod_cast this
  have h0 := Int.floor_le q
  have h1 := Int.lt_floor_add_one q
  simp only [roundHalfEven]
  have hmod : (⌊q⌋.toNat % 2 : Nat) = 0 ∨ (⌊q⌋.toNat % 2 : Nat) = 1 := by omega
  split
  · rw [hcast, abs_le] at *; constructor <;> linarith
  · split
    · push_cast; rw [hcast, abs_le] at *; constructor <;> linarith
    · rename_i h2 h3
      rw [hcast] at h2 h3
      rcases hmod with h4 | h4 <;> rw [h4] <;> push_cast <;> rw [hcast, abs_le] <;> constructor <;> linarith

end Sys2Proof.Machine
end

