-- ==== Sys2Proof/Laws/PerInstr.lean ====
section
/-! SUPPORT. The family `EncodeDecode`, instruction by instruction: the request that the encoder writes for a well-formed
instruction decodes to it (R53 to R56). -/

namespace Sys2Proof.Laws.EncodeDecode

open Sys2Proof Sys2Proof.Machine

/-- The encoded request of a well-formed instruction decodes to the instruction and carries its op code. -/
def Statement (i : Instr) : Prop :=
  i.wf Config.lenW = true → decode (encode Config.lenW i) = i ∧ (encode Config.lenW i).op = opcode i

theorem packBool (b : Bool) : Statement (.packBool b) :=
  fun _ => ⟨congrArg Instr.packBool (argBit_zextBit b), rfl⟩

theorem unpackBool (n : Nat) (d : Lanes) : Statement (.unpackBool n d) :=
  fun h => ⟨decode_unpackRequest .boolean d h, rfl⟩

theorem packB3u (control : Bool) (value : Word) : Statement (.packB3u control value) := fun _ => ⟨rfl, rfl⟩

theorem unpackB3u (n : Nat) (d : Lanes) : Statement (.unpackB3u n d) :=
  fun h => ⟨decode_unpackRequest .bool3 d h, rfl⟩

theorem packU8 (i : Byte) : Statement (.packU8 i) :=
  fun _ => ⟨congrArg Instr.packU8 (argByte_zext32 i), rfl⟩

theorem unpackU8 (n : Nat) (d : Lanes) : Statement (.unpackU8 n d) :=
  fun h => ⟨decode_unpackRequest .unsigned8 d h, rfl⟩

theorem packU32 (w : Word) : Statement (.packU32 w) := fun _ => ⟨rfl, rfl⟩

theorem unpackU32 (n : Nat) (d : Lanes) : Statement (.unpackU32 n d) :=
  fun h => ⟨decode_unpackRequest .unsigned32 d h, rfl⟩

theorem packS32 (i : Int) : Statement (.packS32 i) := fun h => by
  simp only [Instr.wf, fitsSigned32, Bool.and_eq_true, decide_eq_true_eq] at h
  exact ⟨congrArg Instr.packS32 (s32_u32 h.1 h.2), rfl⟩

theorem unpackS32 (n : Nat) (d : Lanes) : Statement (.unpackS32 n d) :=
  fun h => ⟨decode_unpackRequest .signed32 d h, rfl⟩

theorem packF16 (x : Word) : Statement (.packF16 x) := fun _ => ⟨rfl, rfl⟩

theorem unpackF16 (n : Nat) (d : Lanes) : Statement (.unpackF16 n d) :=
  fun h => ⟨decode_unpackRequest .float16 d h, rfl⟩

theorem chklen (n expected : Nat) : Statement (.chklen n expected) := fun h => by
  simp only [Instr.wf, Bool.and_eq_true] at h
  have h2 : expected < 2 ^ Config.lenW := by simpa [fitsLength] using h.2
  refine ⟨?_, rfl⟩
  change Instr.chklen (BitVec.ofNat Config.lenW n).toNat (argLength Config.lenW (BitVec.ofNat 32 expected)) = _
  rw [toNat_ofNat_fits h.1, argLength_ofNat h2 (by decide)]

theorem reservedD : Statement .reservedD := fun _ => ⟨rfl, rfl⟩

theorem reservedE : Statement .reservedE := fun _ => ⟨rfl, rfl⟩

theorem reservedF : Statement .reservedF := fun _ => ⟨rfl, rfl⟩

end Sys2Proof.Laws.EncodeDecode
end

