-- ==== Sys2Proof/Tests/Slice0.lean ====
section
/-! SUPPORT. Tests of the model's own: expected results are those of spec/95_test_vectors.md, section named at each
group; and, for every obligation with hypotheses, a witness that meets them. -/

-- The many kernel evaluations below are elaborated one after another, to bound the number of threads.
set_option Elab.async false

namespace Sys2Proof.Tests

open Sys2Proof Sys2Proof.Machine

/-! ### WellFormed refuses -/

theorem test_wf_refuses_long_length : Instr.wf Config.lenW (.unpackBool 256 Lanes.zero) = false := by decide
theorem test_wf_refuses_long_length_b3u : Instr.wf Config.lenW (.unpackB3u 256 Lanes.zero) = false := by decide
theorem test_wf_refuses_long_length_u8 : Instr.wf Config.lenW (.unpackU8 256 Lanes.zero) = false := by decide
theorem test_wf_refuses_long_length_u32 : Instr.wf Config.lenW (.unpackU32 256 Lanes.zero) = false := by decide
theorem test_wf_refuses_long_length_s32 : Instr.wf Config.lenW (.unpackS32 256 Lanes.zero) = false := by decide
theorem test_wf_refuses_long_length_f16 : Instr.wf Config.lenW (.unpackF16 256 Lanes.zero) = false := by decide
theorem test_wf_refuses_above_signed32 : Instr.wf Config.lenW (.packS32 (2 ^ 31)) = false := by decide
theorem test_wf_refuses_below_signed32 : Instr.wf Config.lenW (.packS32 (-(2 ^ 31) - 1)) = false := by decide
theorem test_wf_refuses_chklen_presented : Instr.wf Config.lenW (.chklen 256 0) = false := by decide
theorem test_wf_refuses_chklen_expected : Instr.wf Config.lenW (.chklen 0 256) = false := by decide

/-! ### Decoding: words laid out from the op map R55 and the packed order of log 3 -/

theorem test_decode_packBool :
    decodeTableWord 88 0x20 = some (.packBool true) := by decide +kernel
theorem test_decode_unpackBool :
    decodeTableWord 88 0x1FC02000000001 = some (.unpackBool 1 ⟨0xFE, 0x00, 0x00, 0x00, 0x00⟩) := by decide +kernel
theorem test_decode_packB3u :
    decodeTableWord 88 0x1B2 = some (.packB3u true 0x0D) := by decide +kernel
theorem test_decode_unpackB3u :
    decodeTableWord 88 0x1A02000000003 = some (.unpackB3u 1 ⟨0x0D, 0x00, 0x00, 0x00, 0x00⟩) := by decide +kernel
theorem test_decode_packU8 :
    decodeTableWord 88 0x2464 = some (.packU8 0x23) := by decide +kernel
theorem test_decode_unpackU8 :
    decodeTableWord 88 0x1FE0E04000000005 = some (.unpackU8 2 ⟨0x07, 0xFF, 0x00, 0x00, 0x00⟩) := by decide +kernel
theorem test_decode_packU32 :
    decodeTableWord 88 0x2468ACF06 = some (.packU32 0x12345678) := by decide +kernel
theorem test_decode_unpackU32 :
    decodeTableWord 88 0x2000001560A000000007 = some (.unpackU32 5 ⟨0xAB, 0x00, 0x00, 0x00, 0x01⟩) := by decide +kernel
theorem test_decode_packS32 :
    decodeTableWord 88 0x1FFFFFFFC8 = some (.packS32 (-2)) := by decide +kernel
theorem test_decode_unpackS32 :
    decodeTableWord 88 0x1FDFFFFFE000A000000009 = some (.unpackS32 5 ⟨0x00, 0xFF, 0xFF, 0xFF, 0xFE⟩) := by decide +kernel
theorem test_decode_packF16 :
    decodeTableWord 88 0x85900000A = some (.packF16 0x42C80000) := by decide +kernel
theorem test_decode_unpackF16 :
    decodeTableWord 88 0x1C438000600000000B = some (.unpackF16 3 ⟨0x00, 0x1C, 0xE2, 0x00, 0x00⟩) := by decide +kernel
theorem test_decode_chklen :
    decodeTableWord 88 0xA0000020AC = some (.chklen 5 5) := by decide +kernel
theorem test_decode_reservedD :
    decodeTableWord 88 0xD = some (.reservedD) := by decide +kernel
theorem test_decode_reservedE :
    decodeTableWord 88 0x685900001E = some (.reservedE) := by decide +kernel
theorem test_decode_reservedF :
    decodeTableWord 88 0xFFFFFFFFEF = some (.reservedF) := by decide +kernel
theorem test_decode_refuses_short : decodeBytes Config.lenW [0x0A] = .error (.wrongByteCount 1) := by rfl
theorem test_decode_refuses_padding :
    decodeBytes Config.lenW [0, 0, 0, 0, 0, 0, 0, 0, 0, 0, 0x80] = .error .nonzeroPadding := by rfl

/-! ### One operation each, from a state with other values in every register (95_test_vectors.md section 2) -/

/-- A state whose registers differ from every expected result below. -/
def busy : State :=
  { rspValid := false, rspStatus := 2, rspLen := 7, rspData := ⟨9, 9, 9, 9, 9⟩, rspVal := 77, rspCtl := true,
    resetSeen := true, edges := [] }

/-- The response registers after one accepted request. -/
def after (i : Instr) : Option Response :=
  match exec i busy with
  | .next t => if t.rspValid then some ⟨t.rspStatus, t.rspLen, t.rspData, t.rspVal, t.rspCtl⟩ else none
  | _ => none

theorem test_packBool_true :
    after (.packBool true) = some ⟨0, 1, ⟨0x01, 0x00, 0x00, 0x00, 0x00⟩, 0x0, false⟩ := by decide +kernel
theorem test_unpackBool_bit0_only :
    after (.unpackBool 1 ⟨0xFE, 0x00, 0x00, 0x00, 0x00⟩) = some ⟨0, 0, ⟨0x00, 0x00, 0x00, 0x00, 0x00⟩, 0x0, false⟩ := by decide +kernel
theorem test_unpackBool_wrong_length :
    after (.unpackBool 2 ⟨0x01, 0x00, 0x00, 0x00, 0x00⟩) = some ⟨1, 0, ⟨0x00, 0x00, 0x00, 0x00, 0x00⟩, 0x0, false⟩ := by decide +kernel
theorem test_packB3u_masks :
    after (.packB3u true 0x0D) = some ⟨0, 1, ⟨0x0D, 0x00, 0x00, 0x00, 0x00⟩, 0x0, false⟩ := by decide +kernel
theorem test_unpackB3u_ignores_high_bits :
    after (.unpackB3u 1 ⟨0xFD, 0x00, 0x00, 0x00, 0x00⟩) = some ⟨0, 0, ⟨0x00, 0x00, 0x00, 0x00, 0x00⟩, 0x5, true⟩ := by decide +kernel
theorem test_packU8_header :
    after (.packU8 0x2A) = some ⟨0, 2, ⟨0x00, 0x2A, 0x00, 0x00, 0x00⟩, 0x0, false⟩ := by decide +kernel
theorem test_unpackU8_ignores_header :
    after (.unpackU8 2 ⟨0x07, 0xFF, 0x00, 0x00, 0x00⟩) = some ⟨0, 0, ⟨0x00, 0x00, 0x00, 0x00, 0x00⟩, 0xFF, false⟩ := by decide +kernel
theorem test_unpackU8_wrong_length :
    after (.unpackU8 1 ⟨0x2A, 0x00, 0x00, 0x00, 0x00⟩) = some ⟨1, 0, ⟨0x00, 0x00, 0x00, 0x00, 0x00⟩, 0x0, false⟩ := by decide +kernel
theorem test_packU32_big_endian :
    after (.packU32 0x12345678) = some ⟨0, 5, ⟨0x00, 0x12, 0x34, 0x56, 0x78⟩, 0x0, false⟩ := by decide +kernel
theorem test_unpackU32_ignores_header :
    after (.unpackU32 5 ⟨0xAB, 0x00, 0x00, 0x00, 0x01⟩) = some ⟨0, 0, ⟨0x00, 0x00, 0x00, 0x00, 0x00⟩, 0x1, false⟩ := by decide +kernel
theorem test_packS32_minus_two :
    after (.packS32 (-2)) = some ⟨0, 5, ⟨0x00, 0xFF, 0xFF, 0xFF, 0xFE⟩, 0x0, false⟩ := by decide +kernel
theorem test_packS32_min :
    after (.packS32 (-2147483648)) = some ⟨0, 5, ⟨0x00, 0x80, 0x00, 0x00, 0x00⟩, 0x0, false⟩ := by decide +kernel
theorem test_unpackS32_min :
    after (.unpackS32 5 ⟨0x00, 0x80, 0x00, 0x00, 0x00⟩) = some ⟨0, 0, ⟨0x00, 0x00, 0x00, 0x00, 0x00⟩, 0x80000000, false⟩ := by decide +kernel
theorem test_packF16_hundred :
    after (.packF16 0x42C80000) = some ⟨0, 3, ⟨0x00, 0x1C, 0xE2, 0x00, 0x00⟩, 0x0, false⟩ := by decide +kernel
theorem test_packF16_negative_split :
    after (.packF16 0xC223E148) = some ⟨0, 3, ⟨0x00, 0x88, 0x00, 0x00, 0x00⟩, 0x0, false⟩ := by decide +kernel
theorem test_unpackF16_hundred :
    after (.unpackF16 3 ⟨0x5A, 0x1C, 0xE2, 0xFF, 0xFF⟩) = some ⟨0, 0, ⟨0x00, 0x00, 0x00, 0x00, 0x00⟩, 0x42C80000, false⟩ := by decide +kernel
theorem test_unpackF16_minus_one :
    after (.unpackF16 3 ⟨0x00, 0xFF, 0xFF, 0x00, 0x00⟩) = some ⟨0, 0, ⟨0x00, 0x00, 0x00, 0x00, 0x00⟩, 0xC3A3D70A, false⟩ := by decide +kernel
theorem test_chklen_equal :
    after (.chklen 0 0) = some ⟨0, 0, ⟨0x00, 0x00, 0x00, 0x00, 0x00⟩, 0x0, false⟩ := by decide +kernel
theorem test_chklen_unequal :
    after (.chklen 199 200) = some ⟨1, 0, ⟨0x00, 0x00, 0x00, 0x00, 0x00⟩, 0x0, false⟩ := by decide +kernel
theorem test_reservedD :
    after (.reservedD) = some ⟨2, 0, ⟨0x00, 0x00, 0x00, 0x00, 0x00⟩, 0x0, false⟩ := by decide +kernel
theorem test_reservedE :
    after (.reservedE) = some ⟨2, 0, ⟨0x00, 0x00, 0x00, 0x00, 0x00⟩, 0x0, false⟩ := by decide +kernel
theorem test_reservedF :
    after (.reservedF) = some ⟨2, 0, ⟨0x00, 0x00, 0x00, 0x00, 0x00⟩, 0x0, false⟩ := by decide +kernel

/-! ### The other `F16_ARITH` (section 2.4, 2.7), and the loop's boundaries (section 2.4) -/

theorem test_packF16_binary32 : packF16 .binary32 0x41AA6666 = [0x00, 0x0C, 0x29] := by decide +kernel
theorem test_decodeReal_binary32 : decodeReal .binary32 1064 1 = 0x41AA3D70 := by decide +kernel
/-- Other parameters than this hardware's. -/
def otherParams : Params := { lenW := 3, f16Arith := .binary32, lenW_ge := by decide }
theorem test_block_step_binary32 :
    (Block.step otherParams
      { toRegisters := Registers.afterReset
        edges := [⟨false, true, ⟨0xA, false, 0x41AA6666, 0, Lanes.zero⟩⟩] }).rspData =
      ⟨0x00, 0x0C, 0x29, 0, 0⟩ := by decide +kernel
theorem test_renorm_positive_4096 : renorm 16 4096 0 = (1024, 2) := by decide
theorem test_renorm_negative_4096 : renorm 16 (-4096) 0 = (-2048, 1) := by decide

/-! ### Edges and outputs (section 3: P3 rows 5 and 8; R162) -/

theorem test_idle_holds : step { busy with rspValid := true, edges := [Edge.idle] } = .next busy := by rfl
theorem test_reset_wins :
    step { busy with edges := [⟨true, true, encode Config.lenW (.packBool true)⟩] } = .next State.reset := by rfl
theorem test_read_before_reset : (State.powerUp []).readOutputs = .fault .readBeforeReset := by rfl
theorem test_read_status_three :
    ({ State.reset with rspStatus := 3 } : State).readOutputs = .refused .statusNeverProduced := by rfl
theorem test_read_length_four :
    ({ State.reset with rspLen := 4 } : State).readOutputs = .refused .lengthNeverProduced := by rfl

/-! ### Text forms (R65; 95_test_vectors.md P1, section 2.1) -/

theorem test_assemble_float : (assemble "PACK.F16 arg=f:21.3".toList).toOption =
    some (Edge.request { blankRequest 8 0xA with arg := 0x41AA6666 }) := by decide +kernel
theorem test_assemble_data : (assemble "UNPACK.F16 len=2 data=0C 28".toList).toOption =
    some (Edge.request { blankRequest 8 0xB with inLen := 2, inData := ⟨0x0C, 0x28, 0, 0, 0⟩ }) := by decide +kernel
theorem test_assemble_any_order : (assemble "CHKLEN arg=5 len=5 ctl=1 data=FF FF FF FF FF".toList).toOption =
    (parseSerial 8 "C:1:00000005:05:FFFFFFFFFF".toList).toOption.map Edge.request := by decide +kernel
theorem test_assemble_negative : (assemble "PACK.S32 arg=-2".toList).toOption =
    some (Edge.request { blankRequest 8 0x8 with arg := 0xFFFFFFFE }) := by decide +kernel
theorem test_assemble_refuses_wrapped_length :
    assemble "UNPACK.U32 len=300 data=00 12 34 56 78".toList = .error .lengthNotPresentable := by rfl
theorem test_serialise : serialise (encode 8 (.packF16 0x42C80000)) = "A:0:42C80000:00:0000000000".toList := by
  decide +kernel

/-! ### Witnesses: for each obligation with hypotheses, a state and operands that meet them -/

/-- A request with every operand field set. -/
def full (op : BitVec 4) : Request Config.lenW := ⟨op, true, 0xC2C80000, 5, ⟨1, 2, 3, 4, 5⟩⟩

theorem witness_PackBoolResult : (full 0x0).op = 0x0 := rfl
theorem witness_UnpackBoolResult : (full 0x1).op = 0x1 := rfl
theorem witness_PackB3uResult : (full 0x2).op = 0x2 := rfl
theorem witness_UnpackB3uResult : (full 0x3).op = 0x3 := rfl
theorem witness_PackU8Result : (full 0x4).op = 0x4 := rfl
theorem witness_UnpackU8Result : (full 0x5).op = 0x5 := rfl
theorem witness_PackU32Result : (full 0x6).op = 0x6 := rfl
theorem witness_UnpackU32Result : (full 0x7).op = 0x7 := rfl
theorem witness_UnpackS32Result : (full 0x9).op = 0x9 := rfl
theorem witness_PackF16Completes : (full 0xA).op = 0xA := rfl
theorem witness_UnpackF16Fields : (full 0xB).op = 0xB := rfl
theorem witness_PackS32Result : (full 0x8).op = 0x8 ∧ -(2 ^ 31) ≤ (-2147483648 : Int) ∧ (-2147483648 : Int) < 2 ^ 31 ∧
    -(2 ^ 31) ≤ (2147483647 : Int) ∧ (2147483647 : Int) < 2 ^ 31 := by decide
theorem witness_ChklenResult : Config.lenW ≤ 32 ∧ (full 0xC).op = 0xC := by decide
theorem witness_ChklenResult_widest : (⟨0xC, false, 0xFFFFFFFF, 0, Lanes.zero⟩ : Request 32).op = 0xC := by decide
theorem witness_EncodeDecodeRequest : (⟨0xC, false, 0xFFFFFFFF, 0, Lanes.zero⟩ : Request 40).op = 0xC := by decide
theorem witness_ReservedOpsResult : (full 0xD).op = 0xD ∧ (full 0xE).op = 0xE ∧ (full 0xF).op = 0xF ∧
    (full 0xC).op.toNat < 0xD := by decide
theorem witness_UnpackF16Result : (full 0xB).op = 0xB ∧ (2 : Nat) ≠ 3 ∧ (4 : Nat) ≠ 3 ∧
    f16Mantissa ⟨0, 0x78, 0x00, 0, 0⟩ = 0 ∧ expField (rne32 0) = 0 := by decide +kernel
theorem witness_PackF16Result : (full 0xA).op = 0xA ∧
    ((0x7F800001 : Word).extractLsb' 23 8 = 0xFF ∧ (0x7F800001 : Word).extractLsb' 0 23 ≠ 0) ∧
    (0x7F7FFFFF : Word).extractLsb' 23 8 ≠ 0xFF ∧ (0x80000000 : Word).extractLsb' 23 8 ≠ 0xFF := by decide
theorem witness_PackF16SpecialInputs :
    (0xFF800001 : Word).extractLsb' 23 8 = 0xFF ∧ (0xFF800001 : Word).extractLsb' 0 23 ≠ 0 := by decide
theorem witness_PackF16Binary32Result : (0x41AA6666 : Word).extractLsb' 23 8 ≠ 0xFF := by decide
theorem witness_NumericPrimitives : expField 0x807FFFFF = 0 ∧
    (0 < expField 0x00800000 ∧ expField 0x00800000 < 0xFF) ∧ (0 < expField 0x7F7FFFFF ∧ expField 0x7F7FFFFF < 0xFF) := by
  decide
/-- A tie: the midpoint of 1.0 and the next word goes to 1.0, whose fraction is even. -/
theorem witness_RneNearestEven : isFinite 0x3F800001 = true ∧ isFinite (rne32 (1 + 1 / 2 ^ 24)) = true ∧
    |1 + 1 / 2 ^ 24 - val32 (rne32 (1 + 1 / 2 ^ 24))| = |1 + 1 / 2 ^ 24 - val32 0x3F800001| ∧
    val32 0x3F800001 ≠ val32 (rne32 (1 + 1 / 2 ^ 24)) ∧ |(1 : ℚ) / 3| < 2 ^ 128 - 2 ^ 103 := by decide +kernel
theorem witness_RneNearestEven_identity : isFinite 0x00000001 = true ∧ (0x00000001 : Word) ≠ 0x80000000 := by decide
theorem witness_RenormIsTheLoop : (-67108864 : Int) ≤ -67108864 ∧ (-67108864 : Int) ≤ 67076096 := by decide
theorem witness_RenormClosedForm : (-67108864 : Int) ≤ 67076096 ∧ (67076096 : Int) ≤ 67076096 := by decide
theorem witness_F16BitPacking : (-2048 : Int) ≤ -2048 ∧ (-2048 : Int) ≤ 2047 ∧ 15 ≤ 15 := by decide
theorem witness_F16BitPacking_upper : (-2048 : Int) ≤ 2047 ∧ (2047 : Int) ≤ 2047 ∧ 0 ≤ 15 := by decide
theorem witness_ClampSaturates : upperBound < 670761 ∧ (-671088.6875 : ℚ) < lowerBound ∧
    (lowerBound ≤ upperBound ∧ upperBound ≤ upperBound) ∧ isFinite 0x4923C290 = true ∧ isFinite 0xC923D70B = true := by
  decide +kernel
theorem witness_QuantizationError : isFinite 0x4923C28F = true ∧ lowerBound ≤ val32 0x4923C28F ∧
    val32 0x4923C28F ≤ upperBound := by decide +kernel
theorem witness_DecodedErrorBound : isFinite 0xC923D70A = true ∧ lowerBound ≤ val32 0xC923D70A ∧
    val32 0xC923D70A ≤ upperBound := by decide +kernel
theorem witness_SignSymmetry : isFinite 0x4223E148 = true ∧ |val32 0x4223E148| ≤ 670760.9375 := by decide +kernel
theorem witness_SplitDependsOnSign : (14 : Nat) ≤ 14 ∧ (2048 * 2 ^ 14 : Int) ≤ 2048 * 2 ^ 14 + 2 ^ 14 - 1 ∧
    (2048 * 2 ^ 14 + 2 ^ 14 - 1 : Int) < 2048 * 2 ^ 14 + 2 ^ 14 := by decide
theorem witness_TinyValuesPackToZero_zero : isFinite 0x80000000 = true ∧ |val32 0x80000000| < 1 / 100 := by
  decide +kernel
theorem witness_TinyValuesPackToZero : isFinite 0xBC23D70A = true ∧ |val32 0xBC23D70A| < 1 / 100 := by decide +kernel
theorem witness_FixedWidthLaws : (full 0x6).op = 0x6 ∧ full 0x8 = { full 0x6 with op := 0x8 } ∧
    -(2 ^ 31) ≤ (-2147483648 : Int) ∧ (-2147483648 : Int) < 2 ^ 31 := by decide
theorem witness_LengthCheckDecides (l : Layout) : frameLen l - 1 ≠ frameLen l ∧ frameLen l + 1 ≠ frameLen l ∧
    (0 : Nat) ≠ frameLen l ∧ (199 : Nat) ≠ 200 := by cases l <;> decide
theorem witness_UnpackReadsOnlyItsLanes :
    (∀ i, i < frameLen .float16 → (⟨1, 2, 3, 4, 5⟩ : Lanes).lane i = (⟨1, 2, 3, 6, 7⟩ : Lanes).lane i) ∧
    (4 : Nat) ≠ frameLen .float16 := by decide
theorem witness_ReservedFrameBits : Layout.float16 ≠ .boolean ∧ Layout.float16 ≠ .bool3 := by decide
theorem witness_UnreadFieldsHaveNoEffect :
    readFields (full 0xC) = readFields { full 0xC with inCtl := false, arg := 0xFFFFFF00, inData := Lanes.zero } := by
  decide
theorem witness_OpMap : Config.lenW ≤ 32 ∧ ∀ k : Fin 16, (full (BitVec.ofFin k)).op = BitVec.ofFin k :=
  ⟨by decide, fun _ => rfl⟩
theorem witness_OpFieldStructure : (full 0xB).op.toNat < 0xC ∧ (full 0xB).op.getLsbD 0 = true ∧
    (full 0xA).op.getLsbD 0 = false ∧ (full 0xC).op = 0xC ∧ 0xC < (full 0xD).op.toNat := by decide
theorem witness_ErrorOutputs : exec .reservedD busy = .next (busy.withError 2) ∧ (busy.withError 2).rspStatus ≠ 0 :=
  ⟨rfl, by decide⟩
theorem witness_ErrorOutputs_length : exec (.chklen 199 200) busy = .next (busy.withError 1) ∧
    (busy.withError 1).rspStatus ≠ 0 := ⟨rfl, by decide⟩
theorem witness_PacksNeverFail : (full 0xA).op.toNat < 0xC ∧ (full 0xA).op.getLsbD 0 = false := by decide
theorem witness_ResponseDependsOnItsRequestOnly :
    ({ busy with edges := [Edge.request (full 0xB)] } : State).edges = Edge.request (full 0xB) :: [] ∧
    ({ State.reset with edges := [Edge.request (full 0xB), Edge.idle] } : State).edges =
      Edge.request (full 0xB) :: [Edge.idle] := ⟨rfl, rfl⟩
theorem witness_AcceptedEdgeLoadsResp :
    ({ busy with edges := [Edge.request (full 0x9)] } : State).edges = Edge.request (full 0x9) :: [] := rfl
theorem witness_AcceptedEdgeLoadsResp_params : otherParams.lenW ≤ 32 ∧ otherParams ≠ Config.params := by decide
theorem witness_ResetEdgeWins :
    ({ busy with edges := [⟨true, true, full 0⟩] } : State).edges = ⟨true, true, full 0⟩ :: [] := rfl
theorem witness_IdleEdgeHolds :
    ({ busy with edges := [⟨false, false, full 0⟩] } : State).edges = ⟨false, false, full 0⟩ :: [] := rfl
theorem witness_NoEdgeListedIsIdle : busy.edges = [] := rfl
theorem witness_ResetValues : (State.powerUp [Edge.reset]).resetSeen = false := rfl
theorem witness_OutputsAreTheRegisters : busy.resetSeen = true ∧
    ({ busy with edges := [Edge.request (full 0xA)] } : State).edges = Edge.request (full 0xA) :: [] ∧
    ({ busy with edges := [Edge.reset] } : State).sampled.rst = true := ⟨rfl, rfl, rfl⟩
/-- A legal state that holds a pack's frame. -/
theorem witness_LegalIsInvariant :
    ({ State.reset with rspLen := 2, rspData := ⟨0, 0x2A, 0, 0, 0⟩ } : State).Legal (some 0x4) := by
  refine ⟨by decide, by decide, fun _ => ⟨rfl, 0x4, rfl, by decide⟩, by decide, fun h => absurd h (by decide)⟩
/-- The same state, after an idle edge and before another: its outputs still show the frame. -/
theorem witness_OutputsAreTheRegisters_idle :
    ({ State.reset with rspLen := 2, rspData := ⟨0, 0x2A, 0, 0, 0⟩ } : State).resetSeen = true ∧
    ({ State.reset with rspLen := 2, rspData := ⟨0, 0x2A, 0, 0, 0⟩ } : State).sampled = Edge.idle := ⟨rfl, rfl⟩
/-- A legal block with other parameters, about to take a request. -/
theorem witness_LegalIsInvariant_block :
    (Block.reset otherParams).toRegisters.Legal none ∧
    nextEdge 3 [(⟨false, true, ⟨0xA, false, 0x41AA6666, 0, Lanes.zero⟩⟩ : EdgeOf 3)] =
      ⟨false, true, ⟨0xA, false, 0x41AA6666, 0, Lanes.zero⟩⟩ := by
  refine ⟨⟨by decide, by decide, fun h => absurd rfl h, by decide, fun h => absurd h (by decide)⟩, rfl⟩
theorem witness_ResetIsLegal : ({ busy with edges := [Edge.reset] } : State).sampled.rst = true := rfl
theorem witness_StepRunsTheDecodedInstruction :
    ({ busy with edges := [Edge.request (full 0xC)] } : State).edges = Edge.request (full 0xC) :: [] ∧
    decode (full 0xC) = .chklen 5 0 ∧ (Instr.chklen 5 0).wf Config.lenW = true := ⟨rfl, by decide, by decide⟩
theorem witness_StepRunsTheDecodedInstruction_bytes :
    (requestOfBytes Config.lenW (bytesOfNat 11 (natOfRequest (full 0xC)))).toOption = some (full 0xC) ∧
    (decodeBytes Config.lenW (bytesOfNat 11 (natOfRequest (full 0xC)))).toOption = some (.chklen 5 0) := by
  decide +kernel
theorem witness_FetchWordRunsNext : decodeTableWord 8 0x0A = some (.packF16 0) := by decide +kernel
theorem witness_DecodeEncodeBytes : (Instr.packS32 2147483647).wf Config.lenW = true ∧
    (Instr.unpackF16 0 Lanes.zero).wf Config.lenW = true ∧ (Instr.chklen 255 255).wf Config.lenW = true ∧
    (Instr.packS32 (-2147483648)).wf Config.lenW = true := by decide
theorem witness_SaturatedLengthKeepsVerdicts : (3 : Nat) ≤ 3 ∧ (255 : Nat) < 2 ^ Config.lenW ∧ (7 : Nat) < 2 ^ 3 := by
  decide

/-! ### The host's question on a table word: the decoder reads it, and step runs it as the first instruction -/

theorem test_first_step_runs (k : Fin 16) :
    step (State.reset.withFetchWord 8 k.val) = exec (decode (blankRequest Config.lenW (BitVec.ofFin k))) State.reset := by
  fin_cases k <;> rfl

end Sys2Proof.Tests
end

section
/-! The family of 10_state.md: every edge of this hardware is the edge of the block with its parameters, and an accepted
request loads `resp(req)`, so that its response depends on nothing else. -/

namespace Sys2Proof.Machine

/-- The decoded instruction loads what the table of op codes gives (R23, R61). A pack and a reserved code answer their
row as it stands; an unpack and CHKLEN complete with a result or an error, which is accepting its response. -/
theorem execIn_decode (mode : F16Arith) {lenW : Nat} (r : Request lenW) (s : State) :
    execIn mode (decode r) s = .next (s.accept (resp mode r)) := by
  unfold decode resp
  generalize r.op.toNat = op
  match op with
  | 0x0 | 0x2 | 0x4 | 0x6 | 0x8 | 0xA => rfl
  | 0x1 | 0x3 | 0x5 | 0x7 | 0x9 | 0xB | 0xC => exact congrArg Host.Outcome.next (complete_eq s _)
  | 0xD | 0xE | _ + 0xF => rfl

/-- `exec` is the meaning under this hardware's `F16_ARITH` (R8). -/
theorem exec_eq_execIn (i : Instr) (s : State) : exec i s = execIn Config.f16Arith i s := by
  cases i <;> rfl

theorem exec_decode {lenW : Nat} (r : Request lenW) (s : State) :
    exec (decode r) s = .next (s.accept (resp Config.f16Arith r)) := by
  rw [exec_eq_execIn, execIn_decode]

/-- One step, whatever the edge: the registers follow the update rule of the block with this hardware's parameters, and
the sampled edge is gone (R23). -/
theorem step_eq_atEdge (s : State) :
    step s = .next { toRegisters := s.toRegisters.atEdge Config.params s.sampled, edges := s.edges.tail } := by
  cases hrst : s.sampled.rst with
  | true => rw [step_reset hrst, Registers.atEdge_reset _ hrst]; rfl
  | false =>
    cases hreq : s.sampled.reqValid with
    | true => rw [step_request hrst hreq, exec_decode, Registers.atEdge_request _ hrst hreq]; rfl
    | false => rw [step_idle hrst hreq, Registers.atEdge_idle _ hrst hreq]; rfl

/-- The step of an accepted request: its response is loaded, and the host's later edges stand (R23). -/
theorem step_of_edges_request {s : State} {r : Request Config.lenW} {rest : List Edge}
    (h : s.edges = Edge.request r :: rest) :
    step s = .next (State.accept { s with edges := rest } (resp Config.f16Arith r)) := by
  have hs := sampled_cons h
  rw [step_request (by rw [hs]; rfl) (by rw [hs]; rfl), hs, pastEdge_cons h]
  exact exec_decode r _

/-- Settles O46, by the meaning of each op code and by the kind of edge. -/
theorem acceptedEdgeLoadsResp : Obligations.AcceptedEdgeLoadsResp :=
  ⟨fun p _ r s => execIn_decode p.f16Arith r s,
    exec_eq_execIn,
    fun s => ⟨_, step_eq_atEdge s, rfl⟩,
    fun _ _ _ h => step_of_edges_request h⟩

/-- Settles O45: after either step every response register is the one of `resp(req)`. -/
theorem responseDependsOnItsRequestOnly : Obligations.ResponseDependsOnItsRequestOnly := by
  unfold Obligations.ResponseDependsOnItsRequestOnly
  intro s s' r rest rest' h h'
  exact ⟨_, _, step_of_edges_request h, step_of_edges_request h', by simp⟩

end Sys2Proof.Machine
end

section
/-! The decoder and what a decoded instruction answers: the op field (R54, R55), the value an unpack reads from its
lanes (R57), and the shapes of a next state told apart by layout and op code. -/

namespace Sys2Proof.Machine

/-- An instruction keeps the op code of its request (R55). -/
theorem opcode_decode {lenW : Nat} (r : Request lenW) : opcode (decode r) = r.op := by
  apply BitVec.eq_of_toNat_eq
  have hlt := r.op.isLt
  unfold decode
  generalize r.op.toNat = op at hlt
  match op with
  | 0x0 | 0x1 | 0x2 | 0x3 | 0x4 | 0x5 | 0x6 | 0x7 | 0x8 | 0x9 | 0xA | 0xB | 0xC | 0xD | 0xE | 0xF => rfl
  | k + 0x10 => omega

/-- The op field is `{op[3:1], op[0]}` (R54). -/
theorem op_split (op : BitVec 4) : op.toNat = 2 * (op.extractLsb' 1 3).toNat + (op.getLsbD 0).toNat := by
  revert op; decide

/-- The layout numbers are those below 6 (R54). -/
theorem exists_layoutNumber {k : Nat} (h : k < 6) : ∃ l, layoutNumber l = k :=
  match k with
  | 0 => ⟨.boolean, rfl⟩
  | 1 => ⟨.bool3, rfl⟩
  | 2 => ⟨.unsigned8, rfl⟩
  | 3 => ⟨.unsigned32, rfl⟩
  | 4 => ⟨.signed32, rfl⟩
  | 5 => ⟨.float16, rfl⟩

/-- An even code below 0xC decodes to an operation on the layout numbered by its upper bits (R54). -/
theorem layoutOf_decode_of_even {lenW : Nat} {r : Request lenW} {l : Layout} (h : r.op.toNat = 2 * layoutNumber l) :
    layoutOf (decode r) = some l := by
  unfold decode
  rw [h]
  cases l <;> rfl

/-- An odd code below 0xC decodes to the unpack of the layout numbered by its upper bits (R54, R56). -/
theorem decode_of_odd {lenW : Nat} {r : Request lenW} {l : Layout} (h : r.op.toNat = 2 * layoutNumber l + 1) :
    decode r = unpackInstr l r.inLen.toNat r.inData := by
  unfold decode
  rw [h]
  cases l <;> rfl

theorem layoutOf_unpackInstr (l : Layout) (n : Nat) (d : Lanes) : layoutOf (unpackInstr l n d) = some l := by
  cases l <;> rfl

/-- Every unpack has an odd code (R54). -/
theorem opcode_unpackInstr_odd (l : Layout) (n : Nat) (d : Lanes) : (opcode (unpackInstr l n d)).getLsbD 0 = true := by
  cases l <;> simp [unpackInstr, opcode]

/-- `RSP_VAL` and `RSP_CTL` of an unpack whose length is right: what it reads from its lanes (R88 to R96, R121). -/
def unpackValue (l : Layout) (d : Lanes) : Word × Bool :=
  match l with
  | .boolean => (zextBit (d.d0 &&& 0x01 == 0x01), false)
  | .bool3 => (zext32 3 (d.d0.extractLsb' 0 3), d.d0.getLsbD 3)
  | .unsigned8 => (zext32 8 d.d1, false)
  | .unsigned32 => (wordOfLanes d, false)
  | .signed32 => (wordOfLanes d, false)
  | .float16 => (rne32 (f16Value (f16Mantissa d) (f16Exponent d)), false)

/-- Every unpack: its value on the layout's length, InvalidLength on any other (R76, R77). -/
theorem exec_unpackInstr (l : Layout) (n : Nat) (d : Lanes) (s : State) : exec (unpackInstr l n d) s =
    .next (if n = frameLen l then s.withValue (unpackValue l d).1 (unpackValue l d).2 else s.withError 1) := by
  cases l with
  | boolean => exact execUnpackBool_eq n d s
  | bool3 => exact execUnpackB3u_eq n d s
  | unsigned8 => exact execUnpackU8_eq n d s
  | unsigned32 => exact execUnpackU32_eq n d s
  | signed32 => exact (execUnpackS32_eq n d s).trans (by rw [u32_s32]; rfl)
  | float16 => exact execUnpackF16_eq n d s

theorem exec_unpackInstr_of_ne {l : Layout} {n : Nat} (h : n ≠ frameLen l) (d : Lanes) (s : State) :
    exec (unpackInstr l n d) s = .next (s.withError 1) := by
  rw [exec_unpackInstr, if_neg h]

/-- An unpack leaves a value or InvalidLength. -/
theorem exec_unpackInstr_cases (l : Layout) (n : Nat) (d : Lanes) (s : State) :
    (∃ v c, exec (unpackInstr l n d) s = .next (s.withValue v c)) ∨
      exec (unpackInstr l n d) s = .next (s.withError 1) := by
  rw [exec_unpackInstr]
  split
  · exact .inl ⟨_, _, rfl⟩
  · exact .inr rfl

/-- Lanes of the same value cannot be told apart by an unpack, whatever the presented length. -/
theorem exec_unpackInstr_congr {l : Layout} {d d' : Lanes} (h : unpackValue l d = unpackValue l d') (n : Nat)
    (s : State) : exec (unpackInstr l n d) s = exec (unpackInstr l n d') s := by
  rw [exec_unpackInstr, exec_unpackInstr, h]

/-- The value depends on the layout's own lanes only (R57). -/
theorem unpackValue_congr {l : Layout} {d d' : Lanes} (h : ∀ i, i < frameLen l → d.lane i = d'.lane i) :
    unpackValue l d = unpackValue l d' := by
  cases l with
  | boolean | bool3 =>
    have h0 : d.d0 = d'.d0 := h 0 (by decide)
    simp only [unpackValue, h0]
  | unsigned8 =>
    have h1 : d.d1 = d'.d1 := h 1 (by decide)
    simp only [unpackValue, h1]
  | unsigned32 | signed32 =>
    have h1 : d.d1 = d'.d1 := h 1 (by decide)
    have h2 : d.d2 = d'.d2 := h 2 (by decide)
    have h3 : d.d3 = d'.d3 := h 3 (by decide)
    have h4 : d.d4 = d'.d4 := h 4 (by decide)
    simp only [unpackValue, wordOfLanes, h1, h2, h3, h4]
  | float16 =>
    have h1 : d.d1 = d'.d1 := h 1 (by decide)
    have h2 : d.d2 = d'.d2 := h 2 (by decide)
    simp only [unpackValue, f16Mantissa, f16MantField, f16Exponent, h1, h2]

/-- The next state of any operation, by what it is: a pack leaves its layout's frame length, a length check a value or
InvalidLength, and only the codes from 0xD up leave ILLEGAL_OP (R58, R76, R144). -/
theorem exec_shape (i : Instr) (s : State) :
    (∃ l d, exec i s = .next (s.withFrame (BitVec.ofNat 3 (frameLen l)) d)) ∨
    (∃ v c, exec i s = .next (s.withValue v c)) ∨
    exec i s = .next (s.withError 1) ∨
    (0xD ≤ (opcode i).toNat ∧ exec i s = .next (s.withError 2)) := by
  cases i with
  | packBool b => exact .inl ⟨.boolean, _, execPackBool_eq b s⟩
  | packB3u control value => exact .inl ⟨.bool3, _, execPackB3u_eq control value s⟩
  | packU8 v => exact .inl ⟨.unsigned8, _, execPackU8_eq v s⟩
  | packU32 w => exact .inl ⟨.unsigned32, _, execPackU32_eq w s⟩
  | packS32 v => exact .inl ⟨.signed32, _, execPackU32_eq (u32 v) s⟩
  | packF16 x => exact .inl ⟨.float16, _, execPackF16_eq x s⟩
  | unpackBool n d => exact .inr ((exec_unpackInstr_cases .boolean n d s).imp_right .inl)
  | unpackB3u n d => exact .inr ((exec_unpackInstr_cases .bool3 n d s).imp_right .inl)
  | unpackU8 n d => exact .inr ((exec_unpackInstr_cases .unsigned8 n d s).imp_right .inl)
  | unpackU32 n d => exact .inr ((exec_unpackInstr_cases .unsigned32 n d s).imp_right .inl)
  | unpackS32 n d => exact .inr ((exec_unpackInstr_cases .signed32 n d s).imp_right .inl)
  | unpackF16 n d => exact .inr ((exec_unpackInstr_cases .float16 n d s).imp_right .inl)
  | chklen n expected =>
    rw [execChklen_eq]
    split
    · exact .inr (.inl ⟨_, _, rfl⟩)
    · exact .inr (.inr (.inl rfl))
  | reservedD | reservedE | reservedF => exact .inr (.inr (.inr ⟨by decide, rfl⟩))

end Sys2Proof.Machine
end

section
/-! The family of 30_encoding.md: which bits of a request each operation reads, the op field, the reserved codes, and
the outputs. -/

namespace Sys2Proof.Machine

/-- An operation below the reserved codes does not complete with ILLEGAL_OP (R144). -/
theorem exec_status_ne_illegalOp {i : Instr} (h : (opcode i).toNat < 0xD) (s : State) :
    ∃ t, exec i s = .next t ∧ t.rspStatus ≠ 2 := by
  obtain ⟨l, d, hx⟩ | ⟨v, c, hx⟩ | hx | ⟨hge, -⟩ := exec_shape i s
  · exact ⟨_, hx, by simp⟩
  · exact ⟨_, hx, by simp⟩
  · exact ⟨_, hx, by simp⟩
  · omega

/-- Settles O12: each reserved code has its own arm of the decoder, and every other code its own shape of answer. -/
theorem reservedOpsResult : Obligations.ReservedOpsResult :=
  ⟨fun _ r => ⟨fun h => by simp [decode, h], fun h => by simp [decode, h], fun h => by simp [decode, h]⟩,
    fun _ => ⟨rfl, rfl, rfl⟩,
    fun _ r s h => exec_status_ne_illegalOp (by rwa [opcode_decode]) s⟩

/-- Settles O40: the op field is twice the layout number plus the direction, and the decoder has its arms in that
order. -/
theorem opFieldStructure : Obligations.OpFieldStructure := by
  refine ⟨by decide, fun lenW r => ⟨fun h => ?_, fun h => ?_, fun h => ?_⟩⟩
  · have hsplit := op_split r.op
    obtain ⟨l, hl⟩ := exists_layoutNumber (k := (r.op.extractLsb' 1 3).toNat) (by omega)
    rw [← hl] at hsplit
    cases hdir : r.op.getLsbD 0 with rw [hdir] at hsplit
    | true =>
      have hdec := decode_of_odd hsplit
      exact ⟨l, by rw [hdec, layoutOf_unpackInstr], hl, fun _ => hdec, nofun⟩
    | false =>
      refine ⟨l, layoutOf_decode_of_even hsplit, hl, nofun, fun _ l' n d hdec => ?_⟩
      have hodd := opcode_unpackInstr_odd l' n d
      rw [← hdec, opcode_decode, hdir] at hodd
      cases hodd
  · exact ⟨_, _, by simp only [decode, h]; rfl⟩
  · have hlt := r.op.isLt
    obtain hop | hop | hop : r.op.toNat = 0xD ∨ r.op.toNat = 0xE ∨ r.op.toNat = 0xF := by omega
    · exact .inl (by simp only [decode, hop])
    · exact .inr (.inl (by simp only [decode, hop]))
    · exact .inr (.inr (by simp only [decode, hop]))

/-- Settles O36: the value of an unpack depends on its layout's lanes only, and a wrong length gives no value. -/
theorem unpackReadsOnlyItsLanes : Obligations.UnpackReadsOnlyItsLanes :=
  ⟨fun _ n _ _ s h => exec_unpackInstr_congr (unpackValue_congr h) n s,
    fun _ _ d d' s h => by rw [exec_unpackInstr_of_ne h d, exec_unpackInstr_of_ne h d']⟩

/-- The header byte of the four layouts that have one is not read (R63). -/
theorem unpackValue_header {l : Layout} (hbool : l ≠ .boolean) (hb3u : l ≠ .bool3) (d : Lanes) (h : Byte) :
    unpackValue l { d with d0 := h } = unpackValue l d := by
  cases l with
  | boolean => exact absurd rfl hbool
  | bool3 => exact absurd rfl hb3u
  | unsigned8 | unsigned32 | signed32 | float16 => rfl

/-- Bits 7..1 of the Boolean byte are not read (R63). -/
theorem unpackValue_boolean_mask (d : Lanes) :
    unpackValue .boolean { d with d0 := d.d0 &&& 0x01 } = unpackValue .boolean d := by
  simp only [unpackValue, BitVec.and_assoc, BitVec.and_self]

/-- Bits 7..4 of the Bool+3bit byte are not read (R63). -/
theorem unpackValue_bool3_mask (d : Lanes) :
    unpackValue .bool3 { d with d0 := d.d0 &&& 0x0F } = unpackValue .bool3 d := by
  have hvalue : (d.d0 &&& 0x0F).extractLsb' 0 3 = d.d0.extractLsb' 0 3 :=
    BitVec.extractLsb'_and.trans BitVec.and_allOnes
  have hcontrol : (d.d0 &&& 0x0F).getLsbD 3 = d.d0.getLsbD 3 :=
    BitVec.getLsbD_and.trans (Bool.and_true _)
  simp only [unpackValue, hvalue, hcontrol]

/-- PACK.BOOL writes bits 7..1 as 0 (R59, R87). -/
theorem packBool_high_bits (b : Bool) : (lanesOfFrame (packBool b)).d0 &&& 0xFE = 0 := by
  revert b; decide

/-- PACK.B3U writes bits 7..4 as 0: both of its parts lie below bit 4 (R59, R89). -/
theorem packB3u_high_bits (control : Bool) (value : Word) :
    (lanesOfFrame (packB3u control value)).d0 &&& 0xF0 = 0 := by
  change ((if control then 0x08 else 0x00) ||| (value &&& 0b111).setWidth 8) &&& (0xF0 : Byte) = 0
  have hvalue : (value &&& 0b111).setWidth 8 &&& (0xF0 : Byte) = 0 := by
    rw [BitVec.setWidth_and, BitVec.and_assoc]
    exact BitVec.and_zero
  rw [BitVec.and_or_distrib_right, hvalue]
  cases control <;> rfl

/-- Settles O37: an unpack's value is the same with the reserved bits masked or changed, and every packed first byte is
written out. -/
theorem reservedFrameBits : Obligations.ReservedFrameBits := by
  refine ⟨fun _ n d h s hbool hb3u => exec_unpackInstr_congr (unpackValue_header hbool hb3u d h) n s,
    fun n d s => exec_unpackInstr_congr (unpackValue_boolean_mask d) n s,
    fun n d s => exec_unpackInstr_congr (unpackValue_bool3_mask d) n s,
    fun b s => ⟨_, execPackBool_eq b s, packBool_high_bits b⟩,
    fun control value s => ⟨_, execPackB3u_eq control value s, packB3u_high_bits control value⟩,
    fun v s => ⟨_, execPackU8_eq v s, rfl⟩,
    fun w s => ⟨_, execPackU32_eq w s, rfl⟩,
    fun i s => ⟨_, execPackU32_eq (u32 i) s, rfl⟩,
    fun x s => ⟨_, execPackF16_eq x s, ?_⟩⟩
  obtain ⟨b1, b2, hframe⟩ := packF16_shape .exact x
  rw [State.withFrame_rspData, hframe]
  rfl

/-- The fields an operation reads include its op code. -/
theorem readFields_op {lenW : Nat} (r : Request lenW) : (readFields r).op = r.op := by
  unfold readFields
  split <;> rfl

/-- PACK.BOOL reads `arg[0]` only (R56). -/
theorem argBit_mask (arg : Word) : argBit (arg &&& 1) = argBit arg :=
  BitVec.getLsbD_and.trans (Bool.and_true _)

/-- PACK.U8 reads `arg[7:0]` only (R56). -/
theorem argByte_mask (arg : Word) : argByte (arg &&& 0xFF) = argByte arg :=
  BitVec.extractLsb'_and.trans BitVec.and_allOnes

/-- PACK.B3U reads `arg[2:0]` only (R56, R89). -/
theorem packB3u_mask (control : Bool) (value : Word) : packB3u control (value &&& 7) = packB3u control value := by
  simp only [packB3u, BitVec.and_assoc, BitVec.and_self]

/-- CHKLEN reads `arg[LEN_W-1:0]` only (R56, R78): a length formed from `arg` fits `arg`. -/
theorem argLength_mask (lenW : Nat) (arg : Word) :
    argLength lenW (BitVec.ofNat 32 (argLength lenW arg)) = argLength lenW arg := by
  have hle : argLength lenW arg ≤ arg.toNat := Nat.mod_le _ _
  have hlt := arg.isLt
  rw [argLength, BitVec.toNat_ofNat, Nat.mod_eq_of_lt (b := 2 ^ 32) (by omega)]
  exact Nat.mod_eq_of_lt (argLength_lt lenW arg)

/-- The request that keeps an unpack's length, and lanes of the same value, gives the same response (R56, R57). -/
theorem exec_unpackInstr_reencoded {lenW : Nat} (n : BitVec lenW) {l : Layout} {d d' : Lanes}
    (h : unpackValue l d' = unpackValue l d) (s : State) :
    exec (unpackInstr l (BitVec.ofNat lenW n.toNat).toNat d') s = exec (unpackInstr l n.toNat d) s := by
  rw [BitVec.ofNat_toNat, BitVec.setWidth_eq]
  exact exec_unpackInstr_congr h _ s

/-- A request may be cut down to the fields its operation reads (R53, R56, R57). -/
theorem exec_decode_readFields {lenW : Nat} (r : Request lenW) (s : State) :
    exec (decode (readFields r)) s = exec (decode r) s := by
  unfold decode
  rw [readFields_op]
  unfold readFields
  generalize r.op.toNat = op
  match op with
  | 0x0 => exact congrArg (fun b => exec (.packBool b) s) (argBit_mask r.arg)
  | 0x2 => exact congrArg (fun f => Host.Outcome.next (s.accept (okFrame f))) (packB3u_mask r.inCtl r.arg)
  | 0x4 => exact congrArg (fun v => exec (.packU8 v) s) (argByte_mask r.arg)
  | 0x6 | 0x8 | 0xA => rfl
  | 0x1 => exact exec_unpackInstr_reencoded (l := .boolean) r.inLen rfl s
  | 0x3 => exact exec_unpackInstr_reencoded (l := .bool3) r.inLen rfl s
  | 0x5 => exact exec_unpackInstr_reencoded (l := .unsigned8) r.inLen rfl s
  | 0x7 => exact exec_unpackInstr_reencoded (l := .unsigned32) r.inLen rfl s
  | 0x9 => exact exec_unpackInstr_reencoded (l := .signed32) r.inLen rfl s
  | 0xB => exact exec_unpackInstr_reencoded (l := .float16) r.inLen rfl s
  | 0xC => exact congrArg (fun n => exec (.chklen r.inLen.toNat n) s) (argLength_mask lenW r.arg)
  | 0xD | 0xE | _ + 0xF => rfl

/-- Settles O38: both requests answer as the fields they read do. -/
theorem unreadFieldsHaveNoEffect : Obligations.UnreadFieldsHaveNoEffect := fun _ r r' s h => by
  rw [← exec_decode_readFields r, h, exec_decode_readFields r']

/-- Registers with legal values are among those the host's read takes (R24, I12, I13). -/
theorem Registers.Legal.readable {g : Registers} {last : Option (BitVec 4)} (h : g.Legal last) :
    g.rspStatus ≠ 3 ∧ legalLength g.rspLen = true := by
  obtain ⟨hstatus, hlen, -⟩ := h
  exact ⟨hstatus, by simpa [legalLength, or_assoc] using hlen⟩

theorem legalLength_frameLen (l : Layout) : legalLength (BitVec.ofNat 3 (frameLen l)) = true := by
  cases l <;> rfl

/-- After any operation the outputs can be read, and `RSP_VALID` is 1 (R52). -/
theorem exec_readOutputs (i : Instr) {s : State} (hseen : s.resetSeen = true) : ∃ t, exec i s = .next t ∧
    t.readOutputs = .next ⟨true, t.rspStatus, t.rspLen, t.rspData, t.rspVal, t.rspCtl⟩ := by
  obtain ⟨l, d, hx⟩ | ⟨v, c, hx⟩ | hx | ⟨-, hx⟩ := exec_shape i s
  · exact ⟨_, hx, readOutputs_legal hseen (by simp) (legalLength_frameLen l)⟩
  · exact ⟨_, hx, readOutputs_legal hseen (by simp) rfl⟩
  · exact ⟨_, hx, readOutputs_legal hseen (by simp) rfl⟩
  · exact ⟨_, hx, readOutputs_legal hseen (by simp) rfl⟩

/-- Settles O51, by the kind of edge: each leaves registers that the host's read takes. -/
theorem outputsAreTheRegisters : Obligations.OutputsAreTheRegisters := by
  refine ⟨fun s last h hseen => ?_, fun s last h hseen hrst hreq => ?_, fun s hrst => ?_, fun _ _ => rfl,
    fun s r rest hseen hedges => ?_⟩
  · obtain ⟨hstatus, hlen⟩ := Registers.Legal.readable h
    exact readOutputs_legal hseen hstatus hlen
  · obtain ⟨hstatus, hlen⟩ := Registers.Legal.readable h
    exact ⟨_, step_idle hrst hreq, readOutputs_legal hseen hstatus hlen⟩
  · exact ⟨_, step_reset hrst, rfl⟩
  · have hs := sampled_cons hedges
    obtain ⟨t, hx, ho⟩ := exec_readOutputs (decode s.sampled.req) (s := s.pastEdge) hseen
    have hstep := step_request (s := s) (by rw [hs]; rfl) (by rw [hs]; rfl)
    exact ⟨t, _, hstep.trans hx, ho, rfl, rfl, rfl, rfl, rfl, rfl⟩

end Sys2Proof.Machine
end

section
/-! The family of 41_length_validator.md: the length check alone decides whether an unpack or CHKLEN completes with OK. -/

namespace Sys2Proof.Machine

/-- CHKLEN's request: the presented length, and the low `LEN_W` bits of `arg` as the expected one (R56, R78). -/
theorem decode_of_chklen {lenW : Nat} {r : Request lenW} (h : r.op = 0xC) :
    decode r = .chklen r.inLen.toNat (r.arg.toNat % 2 ^ lenW) := by
  unfold decode
  rw [h]
  rfl

/-- CHKLEN on equal lengths: OK and every other output 0 (R78). -/
theorem exec_chklen_self (n : Nat) (s : State) : exec (.chklen n n) s = .next (s.withValue 0 false) := by
  rw [execChklen_eq, if_pos rfl]

/-- CHKLEN on different lengths (R78, R143). -/
theorem exec_chklen_of_ne {n expected : Nat} (h : n ≠ expected) (s : State) :
    exec (.chklen n expected) s = .next (s.withError 1) := by
  rw [execChklen_eq, if_neg h]

/-- An unpack of its layout's length, whatever the lanes hold, gives the value it reads from them (R76, R77). -/
theorem exec_unpackInstr_frameLen (l : Layout) (d : Lanes) (s : State) :
    exec (unpackInstr l (frameLen l) d) s = .next (s.withValue (unpackValue l d).1 (unpackValue l d).2) := by
  rw [exec_unpackInstr, if_pos rfl]

/-- Settles O35, by the two outcomes of the length check before each kind of operation. -/
theorem lengthCheckDecides : Obligations.LengthCheckDecides :=
  ⟨fun n _ => ⟨fun h => h ▸ lencheck_self n, lencheck_ne⟩,
    rfl, rfl, rfl, rfl, rfl, rfl,
    fun _ _ s h d => exec_unpackInstr_of_ne h d s,
    fun l s d => ⟨_, _, exec_unpackInstr_frameLen l d s⟩,
    fun _ _ s h => exec_chklen_of_ne h s,
    exec_chklen_self⟩

/-- Settles O11: the decoder forms the expected length, and the length check decides. -/
theorem chklenResult : Obligations.ChklenResult :=
  ⟨fun _ _ _ => decode_of_chklen, execChklen_eq⟩

end Sys2Proof.Machine
end


section
/-! The family of 42_fixed_width.md: the operand each pack reads and the frame it writes, the value each unpack reads
from its lanes, and the error of an unpack on any other length. -/

namespace Sys2Proof.Machine

/-- The pack of a layout, with the operand rule R56 forms from `in_ctl` and `arg`. -/
def packInstr (l : Layout) (control : Bool) (arg : Word) : Instr :=
  match l with
  | .boolean => .packBool (argBit arg)
  | .bool3 => .packB3u control arg
  | .unsigned8 => .packU8 (argByte arg)
  | .unsigned32 => .packU32 arg
  | .signed32 => .packS32 (s32 arg)
  | .float16 => .packF16 arg

/-- A layout's pack code, twice its number, decodes to its pack (R54, R56). -/
theorem decode_of_packOp (l : Layout) {lenW : Nat} {r : Request lenW} (h : r.op = BitVec.ofNat 4 (2 * layoutNumber l)) :
    decode r = packInstr l r.inCtl r.arg := by
  unfold decode
  rw [h]
  cases l <;> rfl

/-- A layout's unpack code, the one after its pack code, decodes to its unpack (R54, R56). -/
theorem decode_of_unpackOp (l : Layout) {lenW : Nat} {r : Request lenW}
    (h : r.op = BitVec.ofNat 4 (2 * layoutNumber l + 1)) : decode r = unpackInstr l r.inLen.toNat r.inData :=
  decode_of_odd (by rw [h]; cases l <;> rfl)

/-- Settles O1: the operand is `arg[0]`, and the frame is one byte. -/
theorem packBoolResult : Obligations.PackBoolResult :=
  ⟨fun _ _ => decode_of_packOp .boolean, execPackBool_eq⟩

/-- The Boolean of a byte is its bit 0: the comparison with `0x01` ignores the other bits (R63, R88). -/
theorem and_one_beq_one (b : Byte) : (b &&& 0x01 == 0x01) = b.getLsbD 0 := by
  change (b &&& 1#8 == 1#8) = b.getLsbD 0
  rw [BitVec.and_one_eq_setWidth_ofBool_getLsbD]
  cases b.getLsbD 0 <;> rfl

/-- Settles O2: the value is bit 0 of the byte, and any length but 1 fails. -/
theorem unpackBoolResult : Obligations.UnpackBoolResult := by
  refine ⟨fun _ _ => decode_of_unpackOp .boolean, fun n d s => ?_⟩
  rw [execUnpackBool_eq, and_one_beq_one, zextBit]

/-- Masking with `0b111` keeps `value[2:0]` (R89). -/
theorem setWidth_and_seven (value : Word) :
    (value &&& 0b111).setWidth 8 = (value.extractLsb' 0 3).setWidth 8 := by
  apply BitVec.eq_of_toNat_eq
  have hmask : value.toNat &&& 7 = value.toNat % 2 ^ 3 := Nat.and_two_pow_sub_one_eq_mod value.toNat 3
  simp only [BitVec.toNat_setWidth, BitVec.toNat_and, BitVec.extractLsb'_toNat, Nat.shiftRight_zero]
  exact congrArg (· % 2 ^ 8) hmask

/-- The control bit beside a 3-bit value, as the fields of one byte (R59, R89). -/
theorem control_or_value (control : Bool) (v : BitVec 3) :
    (if control then 0x08 else 0x00) ||| v.setWidth 8 = 0#4 ++ BitVec.ofBool control ++ v := by
  revert control v; decide

/-- The frame of PACK.B3U by its bit fields (R89). -/
theorem packB3u_fields (control : Bool) (value : Word) :
    packB3u control value = [0#4 ++ BitVec.ofBool control ++ value.extractLsb' 0 3] := by
  rw [packB3u, setWidth_and_seven, control_or_value]

/-- Settles O3: the frame's byte consists of its bit fields. -/
theorem packB3uResult : Obligations.PackB3uResult := by
  refine ⟨fun _ _ => decode_of_packOp .bool3, fun control value s => ?_⟩
  rw [execPackB3u_eq, packB3u_fields]
  rfl

/-- Settles O4: the value is `d[0][2:0]`, the control bit `d[0][3]`. -/
theorem unpackB3uResult : Obligations.UnpackB3uResult :=
  ⟨fun _ _ => decode_of_unpackOp .bool3, execUnpackB3u_eq⟩

/-- Settles O5: the operand is `arg[7:0]`, and the frame is header 0 and that byte. -/
theorem packU8Result : Obligations.PackU8Result :=
  ⟨fun _ _ => decode_of_packOp .unsigned8, execPackU8_eq⟩

/-- Settles O6: the value is lane 1, whatever the header. -/
theorem unpackU8Result : Obligations.UnpackU8Result :=
  ⟨fun _ _ => decode_of_unpackOp .unsigned8, execUnpackU8_eq⟩

/-- Settles O7: the operand is the whole `arg`, and its bytes follow header 0, most significant first. -/
theorem packU32Result : Obligations.PackU32Result :=
  ⟨fun _ _ => decode_of_packOp .unsigned32, execPackU32_eq⟩

/-- Settles O8: the value is the word of lanes 1 to 4, whatever the header. -/
theorem unpackU32Result : Obligations.UnpackU32Result :=
  ⟨fun _ _ => decode_of_unpackOp .unsigned32, execUnpackU32_eq⟩

/-- Settles O9: the operand is in range because it is a reading of a 32-bit word, and its frame is that of its word
under PACK.U32. -/
theorem packS32Result : Obligations.PackS32Result :=
  ⟨fun _ r h => ⟨s32 r.arg, decode_of_packOp .signed32 h, s32_eq_toInt r.arg, s32_bounds r.arg⟩,
    fun i s _ _ => (execPackS32_eq i s).trans (execPackU32_eq (u32 i) s)⟩

/-- UNPACK.S32 of the layout's length gives the two's-complement reading of the lanes' word (R96). -/
theorem unpackS32_five (d : Lanes) : unpackS32 5 d = .ok (wordOfLanes d).toInt := by
  rw [unpackS32_eq, if_pos rfl, s32_eq_toInt]

/-- Settles O10: the integer is the word's reading, and its bit pattern is the word again (`u32_s32`). -/
theorem unpackS32Result : Obligations.UnpackS32Result :=
  ⟨fun _ _ => decode_of_unpackOp .signed32, unpackS32_five, exec_unpackInstr .signed32⟩

end Sys2Proof.Machine
end

section
/-! SUPPORT. How the binary32 rounding and the truncation order their operands, and the fields of a word by arithmetic. -/

namespace Sys2Proof.Machine

/-! ### Truncation toward zero -/

theorem trunc_mono {q q' : ℚ} (h : q ≤ q') : trunc q ≤ trunc q' := by
  rcases lt_or_ge q 0 with hq | hq
  · rw [trunc_of_neg hq]
    rcases lt_or_ge q' 0 with hq' | hq'
    · rw [trunc_of_neg hq']
      exact Int.ceil_mono h
    · rw [trunc_of_nonneg hq']
      exact (Int.ceil_le.mpr (by exact_mod_cast hq.le)).trans (Int.floor_nonneg.mpr hq')
  · rw [trunc_of_nonneg hq, trunc_of_nonneg (hq.trans h)]
    exact Int.floor_mono h

theorem le_trunc {a : Int} {q : ℚ} (h : (a : ℚ) ≤ q) : a ≤ trunc q :=
  (trunc_intCast a).symm.trans_le (trunc_mono h)

theorem trunc_le {a : Int} {q : ℚ} (h : q ≤ (a : ℚ)) : trunc q ≤ a :=
  (trunc_mono h).trans_eq (trunc_intCast a)

/-- Truncating an integer's quotient is the division that rounds toward zero (R13). -/
theorem trunc_intCast_div_natCast (m : Int) (d : Nat) : trunc ((m : ℚ) / d) = m.tdiv d := by
  have hnonneg : ∀ n : Nat, trunc ((n : ℚ) / d) = (n : Int).tdiv d := fun n => by
    rw [trunc_of_nonneg (by positivity), Rat.floor_natCast_div_natCast, Int.tdiv_eq_ediv_of_nonneg (by positivity)]
  obtain ⟨n, rfl | rfl⟩ := m.eq_nat_or_neg
  · rw [Int.cast_natCast, hnonneg]
  · rw [Int.neg_tdiv, ← hnonneg, ← trunc_neg, Int.cast_neg, Int.cast_natCast, neg_div]

theorem tdiv2_eq_trunc (m : Int) : tdiv2 m = trunc ((m : ℚ) / 2) :=
  (trunc_intCast_div_natCast m 2).symm

/-- Two divisions toward zero are one: no truncation on the way changes the result. -/
theorem tdiv_tdiv_natCast (m : Int) (a b : Nat) : (m.tdiv a).tdiv b = m.tdiv (a * b) := by
  have hnat : ∀ n : Nat, ((n : Int).tdiv a).tdiv b = (n : Int).tdiv (a * b) := fun n => by
    rw [← Int.natCast_mul, ← Int.ofNat_tdiv, ← Int.ofNat_tdiv, ← Int.ofNat_tdiv, Nat.div_div_eq_div_mul]
  obtain ⟨n, rfl | rfl⟩ := m.eq_nat_or_neg
  · exact hnat n
  · rw [Int.neg_tdiv, Int.neg_tdiv, Int.neg_tdiv, hnat]

/-- Halving `k` times with truncation is one truncated division (R116). -/
theorem iterate_tdiv2 (k : Nat) (m : Int) : tdiv2^[k] m = m.tdiv (2 ^ k) := by
  induction k with
  | zero => simp
  | succ k ih =>
    rw [Function.iterate_succ_apply', ih, tdiv2, pow_succ]
    exact_mod_cast tdiv_tdiv_natCast m (2 ^ k) 2

theorem iterate_tdiv2_eq_trunc (k : Nat) (m : Int) : tdiv2^[k] m = trunc ((m : ℚ) / 2 ^ k) := by
  rw [iterate_tdiv2]
  exact_mod_cast (trunc_intCast_div_natCast m (2 ^ k)).symm

/-! ### Rounding half to even -/

/-- The rounding by its remainder: below, above, or at the half. -/
theorem roundHalfEven_cases (q : ℚ) :
    (q - ⌊q⌋₊ < 1 / 2 ∧ roundHalfEven q = ⌊q⌋₊) ∨ (1 / 2 < q - ⌊q⌋₊ ∧ roundHalfEven q = ⌊q⌋₊ + 1) ∨
      (q - ⌊q⌋₊ = 1 / 2 ∧ roundHalfEven q = ⌊q⌋₊ + ⌊q⌋₊ % 2) := by
  rw [← Int.floor_toNat]
  rcases lt_trichotomy (q - (⌊q⌋.toNat : ℚ)) (1 / 2) with h | h | h
  · exact .inl ⟨h, if_pos h⟩
  · exact .inr (.inr ⟨h, (if_neg h.not_lt).trans (if_neg h.not_gt)⟩)
  · exact .inr (.inl ⟨h, (if_neg h.not_gt).trans (if_pos h)⟩)

theorem floor_le_roundHalfEven (q : ℚ) : ⌊q⌋₊ ≤ roundHalfEven q := by
  obtain ⟨-, h⟩ | ⟨-, h⟩ | ⟨-, h⟩ := roundHalfEven_cases q <;> omega

theorem roundHalfEven_le_floor_add_one (q : ℚ) : roundHalfEven q ≤ ⌊q⌋₊ + 1 := by
  obtain ⟨-, h⟩ | ⟨-, h⟩ | ⟨-, h⟩ := roundHalfEven_cases q <;> omega

theorem roundHalfEven_natCast (n : Nat) : roundHalfEven n = n := by
  simp [roundHalfEven]

/-- Within one unit the remainder decides; across a unit boundary neither rounding passes the boundary. -/
theorem roundHalfEven_mono {q q' : ℚ} (h : q ≤ q') : roundHalfEven q ≤ roundHalfEven q' := by
  have hlow := floor_le_roundHalfEven q'
  have hup := roundHalfEven_le_floor_add_one q
  rcases (Nat.floor_mono h).lt_or_eq with hlt | heq
  · omega
  · have hr := roundHalfEven_cases q
    have hr' := roundHalfEven_cases q'
    rw [heq] at hr
    obtain ⟨-, hr⟩ | ⟨hq, hr⟩ | ⟨hq, hr⟩ := hr
    · omega
    · obtain ⟨hq', -⟩ | ⟨-, hr'⟩ | ⟨hq', -⟩ := hr'
      · linarith
      · omega
      · linarith
    · obtain ⟨hq', -⟩ | ⟨-, hr'⟩ | ⟨-, hr'⟩ := hr'
      · linarith
      · omega
      · omega

/-! ### Rounding to binary32 -/

theorem placeOf_ge (q : ℚ) : -149 ≤ placeOf q := le_max_right _ _

theorem placeOf_mono {q q' : ℚ} (hq : 0 < q) (h : q ≤ q') : placeOf q ≤ placeOf q' :=
  max_le_max_right _ (Int.sub_le_sub_right (Int.log_mono_right hq h) 23)

/-- In units of its last place a number takes at most 24 bits. -/
theorem roundHalfEven_place_le (q : ℚ) : roundHalfEven (q / 2 ^ placeOf q) ≤ 2 ^ 24 := by
  have hlt : q < 2 ^ (Int.log 2 q + 1) := by exact_mod_cast Int.lt_zpow_succ_log_self (by decide : 1 < 2) q
  have hle : Int.log 2 q + 1 ≤ 24 + placeOf q := by
    have := le_max_left (Int.log 2 q - 23) (-149)
    unfold placeOf
    omega
  have hq : q / 2 ^ placeOf q ≤ ((2 ^ 24 : Nat) : ℚ) := by
    rw [div_le_iff₀ (by positivity)]
    calc q ≤ 2 ^ (Int.log 2 q + 1) := hlt.le
      _ ≤ 2 ^ (24 + placeOf q) := zpow_le_zpow_right₀ (by norm_num) hle
      _ = _ := by rw [zpow_add₀ (by norm_num)]; norm_num
  calc roundHalfEven (q / 2 ^ placeOf q) ≤ roundHalfEven ((2 ^ 24 : Nat) : ℚ) := roundHalfEven_mono hq
    _ = 2 ^ 24 := roundHalfEven_natCast _

/-- Above the subnormals it takes all of the 24 bits. -/
theorem le_roundHalfEven_place {q : ℚ} (hq : 0 < q) (h : -149 < placeOf q) :
    2 ^ 23 ≤ roundHalfEven (q / 2 ^ placeOf q) := by
  have hplace : placeOf q = Int.log 2 q - 23 := by
    unfold placeOf at h ⊢
    omega
  have hle : ((2 ^ 23 : Nat) : ℚ) ≤ q / 2 ^ placeOf q := by
    rw [le_div_iff₀ (by positivity)]
    calc ((2 ^ 23 : Nat) : ℚ) * 2 ^ placeOf q = 2 ^ (23 + placeOf q) := by
          rw [zpow_add₀ (by norm_num)]; norm_num
      _ = 2 ^ Int.log 2 q := by rw [hplace]; congr 1; omega
      _ ≤ q := by exact_mod_cast Int.zpow_log_le_self (by decide : 1 < 2) hq
  calc 2 ^ 23 = roundHalfEven ((2 ^ 23 : Nat) : ℚ) := (roundHalfEven_natCast _).symm
    _ ≤ _ := roundHalfEven_mono hle

/-- A larger number never rounds to smaller bits: with the same last place by the rounding of the significand, and with
a larger one because the exponent field makes up for the significand. -/
theorem roundMagnitude_mono {q q' : ℚ} (hq : 0 < q) (h : q ≤ q') : roundMagnitude q ≤ roundMagnitude q' := by
  refine min_le_min_right _ ?_
  rcases (placeOf_mono hq h).eq_or_lt with heq | hlt
  · rw [heq]
    exact Nat.add_le_add_left (roundHalfEven_mono (by gcongr)) _
  · have hge := placeOf_ge q
    have hup := roundHalfEven_place_le q
    have hlow := le_roundHalfEven_place (hq.trans_le h) (hge.trans_lt hlt)
    omega

theorem toNat_rne32_of_pos {q : ℚ} (h : 0 < q) : (rne32 q).toNat = roundMagnitude q := by
  have hle := roundMagnitude_le q
  rw [rne32_of_pos h, BitVec.toNat_ofNat]
  omega

theorem toNat_rne32_of_neg {q : ℚ} (h : q < 0) : (rne32 q).toNat = 2 ^ 31 + roundMagnitude (-q) := by
  have hle := roundMagnitude_le (-q)
  rw [rne32_of_neg h, BitVec.toNat_ofNat]
  omega

/-! ### The fields of a binary32 word, and the order of the values -/

theorem toNat_extractLsb'_eq {w : Nat} (x : BitVec w) (start len : Nat) :
    (x.extractLsb' start len).toNat = x.toNat / 2 ^ start % 2 ^ len := by
  rw [BitVec.extractLsb'_toNat, Nat.shiftRight_eq_div_pow]

theorem expField_eq (w : Word) : expField w = w.toNat / 2 ^ 23 % 2 ^ 8 := toNat_extractLsb'_eq w 23 8

theorem fracField_eq (w : Word) : fracField w = w.toNat % 2 ^ 23 :=
  (toNat_extractLsb'_eq w 0 23).trans (by rw [pow_zero, Nat.div_one])

theorem signBit_iff (w : Word) : w.getLsbD 31 = true ↔ 2 ^ 31 ≤ w.toNat := by
  rw [← BitVec.msb_eq_getLsbD_last w, BitVec.msb_eq_decide, decide_eq_true_iff]

theorem isNaN_of_fields {w : Word} (hexp : w.extractLsb' 23 8 = 0xFF) (hfrac : w.extractLsb' 0 23 ≠ 0) :
    isNaN w = true := by
  have hne : fracField w ≠ 0 := fun h => hfrac (BitVec.eq_of_toNat_eq h)
  simp [isNaN, expField, hexp, hne]

theorem isFinite_of_fields {w : Word} (h : w.extractLsb' 23 8 ≠ 0xFF) : isFinite w = true := by
  have hne : expField w ≠ 0xFF := fun heq => h (BitVec.eq_of_toNat_eq heq)
  simp [isFinite, hne]

/-- The value of a word without its sign (R9). -/
def magnitude32 (w : Word) : ℚ := (significand w : ℚ) * 2 ^ lastPlace w

theorem magnitude32_nonneg (w : Word) : 0 ≤ magnitude32 w := by
  unfold magnitude32
  positivity

theorem val32_of_lt {w : Word} (h : w.toNat < 2 ^ 31) : val32 w = magnitude32 w := by
  rw [val32, if_neg (by rw [signBit_iff]; omega), one_mul, magnitude32]

theorem val32_of_ge {w : Word} (h : 2 ^ 31 ≤ w.toNat) : val32 w = -magnitude32 w := by
  rw [val32, if_pos ((signBit_iff w).mpr h), neg_one_mul, neg_mul, magnitude32]

/-- Every word lies below the place of the next exponent field. -/
theorem magnitude32_le_of_expField_lt {w w' : Word} (h : expField w < expField w') :
    magnitude32 w ≤ 2 ^ 23 * 2 ^ lastPlace w' := by
  have hfrac : fracField w < 2 ^ 23 := BitVec.isLt _
  unfold magnitude32 significand
  split
  · have hplace : lastPlace w ≤ lastPlace w' := by unfold lastPlace; omega
    gcongr
    · exact_mod_cast hfrac.le
    · norm_num
  · have hplace : 1 + lastPlace w ≤ lastPlace w' := by unfold lastPlace; omega
    calc ((fracField w + 2 ^ 23 : Nat) : ℚ) * 2 ^ lastPlace w
        ≤ (2 ^ 23 * 2) * 2 ^ lastPlace w := by gcongr; exact_mod_cast (by omega : fracField w + 2 ^ 23 ≤ 2 ^ 23 * 2)
      _ = 2 ^ 23 * 2 ^ (1 + lastPlace w) := by rw [zpow_add₀ (by norm_num), zpow_one, mul_assoc]
      _ ≤ 2 ^ 23 * 2 ^ lastPlace w' := by gcongr; norm_num

/-- The values of words are in the order of their bits 30:0: the exponent field first, then the fraction. -/
theorem magnitude32_mono {w w' : Word} (h : w.toNat % 2 ^ 31 ≤ w'.toNat % 2 ^ 31) :
    magnitude32 w ≤ magnitude32 w' := by
  have he := expField_eq w
  have he' := expField_eq w'
  have hf := fracField_eq w
  have hf' := fracField_eq w'
  rcases lt_or_ge (expField w) (expField w') with hlt | hge
  · have hsig : 2 ^ 23 ≤ significand w' := by unfold significand; split <;> omega
    calc magnitude32 w ≤ 2 ^ 23 * 2 ^ lastPlace w' := magnitude32_le_of_expField_lt hlt
      _ ≤ magnitude32 w' := by unfold magnitude32; gcongr; exact_mod_cast hsig
  · have hexp : expField w = expField w' := by omega
    have hplace : lastPlace w = lastPlace w' := by unfold lastPlace; rw [hexp]
    have hsig : significand w ≤ significand w' := by unfold significand; rw [hexp]; split <;> omega
    unfold magnitude32
    rw [hplace]
    gcongr

end Sys2Proof.Machine
end

section
/-! SUPPORT. The steps of the Float16 codec: the clamp's range, the loop, and the payload of a frame by arithmetic. -/

namespace Sys2Proof.Machine

/-! ### Clamp and provisional mantissa -/

theorem clampF_exact_eq (x : ℚ) : clampF .exact x = max (-67108864 / 100) (min (67076096 / 100) x) := by
  change (if upperBound < x then upperBound else if x < lowerBound then lowerBound else x) =
    max lowerBound (min upperBound x)
  have hbounds : lowerBound ≤ upperBound := by norm_num [lowerBound, upperBound]
  split
  case isTrue h => rw [min_eq_left h.le, max_eq_right hbounds]
  case isFalse h =>
    rw [min_eq_right (not_lt.mp h)]
    split
    case isTrue h' => exact (max_eq_left h'.le).symm
    case isFalse h' => exact (max_eq_right (not_lt.mp h')).symm

theorem clampF_exact_mem (x : ℚ) : lowerBound ≤ clampF .exact x ∧ clampF .exact x ≤ upperBound := by
  rw [clampF_exact_eq]
  exact ⟨le_max_left _ _, max_le (by norm_num [upperBound]) (min_le_left _ _)⟩

/-- The clamp keeps the provisional mantissa within 2048 * 2^15 below and 2047 * 2^15 above (R112, R113). -/
theorem provisional_exact_mem (x : ℚ) :
    -67108864 ≤ provisional .exact x ∧ provisional .exact x ≤ 67076096 := by
  obtain ⟨hlow, hup⟩ := clampF_exact_mem x
  unfold lowerBound at hlow
  unfold upperBound at hup
  exact ⟨le_trunc (by push_cast; linarith), trunc_le (by push_cast; linarith)⟩

/-! ### The renormalisation loop -/

/-- The loop answers the first iterate of the halving that is in range, if its turns suffice (R114). -/
theorem renorm_of_first {k fuel e : Nat} {m : Int} (hfuel : k ≤ fuel) (hin : inMantissaRange (tdiv2^[k] m) = true)
    (hout : ∀ j, j < k → inMantissaRange (tdiv2^[j] m) = false) : renorm fuel m e = (tdiv2^[k] m, e + k) := by
  induction k generalizing fuel e m with
  | zero => exact renorm_inside hin
  | succ k ih =>
    obtain ⟨f, rfl⟩ : ∃ f, fuel = f + 1 := ⟨fuel - 1, by omega⟩
    have hfirst : inMantissaRange m = false := hout 0 k.succ_pos
    rw [renorm_outside hfirst, ih (by omega) hin fun j hj => hout (j + 1) (by omega),
      Function.iterate_succ_apply, Nat.add_assoc, Nat.add_comm 1 k]

/-- Fifteen halvings bring every mantissa that the clamp allows into range (R115). -/
theorem inMantissaRange_iterate_fifteen {m0 : Int} (hlow : -67108864 ≤ m0) (hup : m0 ≤ 67076096) :
    inMantissaRange (tdiv2^[15] m0) = true := by
  rw [inMantissaRange_iff, iterate_tdiv2_eq_trunc]
  have hlowQ : (-67108864 : ℚ) ≤ m0 := by exact_mod_cast hlow
  have hupQ : (m0 : ℚ) ≤ 67076096 := by exact_mod_cast hup
  exact ⟨le_trunc (by push_cast; linarith), trunc_le (by push_cast; linarith)⟩

/-- So there is a least number of halvings, the loop stops there, and it is at most 15 (R114, R115). -/
theorem renorm_sixteen {m0 : Int} (hlow : -67108864 ≤ m0) (hup : m0 ≤ 67076096) : ∃ k, k ≤ 15 ∧
    renorm 16 m0 0 = (tdiv2^[k] m0, k) ∧ inMantissaRange (tdiv2^[k] m0) = true ∧
    ∀ j, j < k → inMantissaRange (tdiv2^[j] m0) = false := by
  have hfifteen := inMantissaRange_iterate_fifteen hlow hup
  have hex : ∃ k, inMantissaRange (tdiv2^[k] m0) = true := ⟨15, hfifteen⟩
  have hk : Nat.find hex ≤ 15 := Nat.find_min' hex hfifteen
  have hout : ∀ j, j < Nat.find hex → inMantissaRange (tdiv2^[j] m0) = false := fun j hj =>
    Bool.eq_false_iff.mpr (Nat.find_min hex hj)
  refine ⟨Nat.find hex, hk, ?_, Nat.find_spec hex, hout⟩
  rw [renorm_of_first (by omega) (Nat.find_spec hex) hout, Nat.zero_add]

/-- The loop answers the closed form: each iterate is one truncated quotient (R116). -/
theorem renorm_isClosedForm {m0 : Int} (hlow : -67108864 ≤ m0) (hup : m0 ≤ 67076096) :
    IsClosedForm m0 (renorm 16 m0 0).1 (renorm 16 m0 0).2 := by
  obtain ⟨k, hk, hrenorm, hin, hout⟩ := renorm_sixteen hlow hup
  obtain ⟨hmin, hmax⟩ := (inMantissaRange_iff _).mp hin
  rw [hrenorm]
  refine ⟨hk, iterate_tdiv2_eq_trunc k m0, hmin, hmax, fun j hj hmem => ?_⟩
  rw [← iterate_tdiv2_eq_trunc, ← inMantissaRange_iff, hout j hj] at hmem
  cases hmem

/-! ### The payload of a frame -/

theorem toNat_append_eq {v w : Nat} (x : BitVec v) (y : BitVec w) :
    (x ++ y).toNat = x.toNat * 2 ^ w + y.toNat := by
  rw [BitVec.toNat_append, ← Nat.shiftLeft_add_eq_or_of_lt y.isLt, Nat.shiftLeft_eq]

/-- A negative mantissa with 2048 added, or a mantissa as it is: both are `m` modulo 2048 (R117). -/
theorem mantissaField_eq (m : Int) :
    (if m < 0 then BitVec.ofInt 11 (m + 2048) else BitVec.ofInt 11 m) = BitVec.ofInt 11 m := by
  have hwrap : BitVec.ofInt 11 (m + 2048) = BitVec.ofInt 11 m := by
    apply BitVec.eq_of_toNat_eq
    rw [BitVec.toNat_ofInt, BitVec.toNat_ofInt]
    omega
  rw [hwrap, ite_self]

/-- The high byte of `{s, e[3:0], mant[10:0]}` ends with the mantissa's upper bits (R38, R117). -/
theorem highByte_eq (s : BitVec 1) (e : BitVec 4) (mant : BitVec 11) :
    (s ++ e ++ mant).extractLsb' 8 8 = s ++ e ++ mant.extractLsb' 8 3 := by
  apply BitVec.eq_of_toNat_eq
  simp only [toNat_extractLsb'_eq, toNat_append_eq]
  omega

theorem f16Frame_eq_payload (m : Int) (e : Nat) :
    f16Frame m e = [0x00, (f16Payload m e).extractLsb' 8 8, (f16Payload m e).extractLsb' 0 8] := by
  have hsign : (if m < 0 then 1 else 0 : BitVec 1) = BitVec.ofBool (decide (m < 0)) := by
    split <;> simp [*]
  rw [f16Payload, highByte_eq, BitVec.extractLsb'_append_eq_of_add_le (by decide), ← hsign]
  simp only [f16Frame, mantissaField_eq]

theorem lanesOfFrame_f16Frame (m : Int) (e : Nat) : lanesOfFrame (f16Frame m e) = f16Lanes m e := by
  rw [f16Frame_eq_payload]
  rfl

/-- The payload as a number: sign, exponent and mantissa field (R117). -/
theorem toNat_f16Payload {m : Int} {e : Nat} (hmin : -2048 ≤ m) (hmax : m ≤ 2047) (he : e ≤ 15) :
    (f16Payload m e).toNat =
      (if m < 0 then 1 else 0) * 2 ^ 15 + e * 2 ^ 11 + (if m < 0 then m + 2048 else m).toNat := by
  rw [f16Payload, toNat_append_eq, toNat_append_eq, BitVec.toNat_ofBool, BitVec.toNat_ofNat, BitVec.toNat_ofInt]
  by_cases hm : m < 0
  · rw [decide_eq_true hm, if_pos hm, if_pos hm, Bool.toNat_true]
    omega
  · rw [decide_eq_false hm, if_neg hm, if_neg hm, Bool.toNat_false]
    omega

/-- The exponent field, by the number that byte 1 and byte 2 form (R120). -/
theorem f16Exponent_eq (d : Lanes) : f16Exponent d = (d.d1 ++ d.d2).toNat / 2 ^ 11 % 2 ^ 4 := by
  have hd2 := d.d2.isLt
  rw [f16Exponent, toNat_extractLsb'_eq, toNat_append_eq]
  omega

/-- The signed mantissa, by the number that byte 1 and byte 2 form (R120). -/
theorem f16Mantissa_eq (d : Lanes) : f16Mantissa d =
    ((d.d1 ++ d.d2).toNat % 2 ^ 11 : Nat) - (if 2 ^ 15 ≤ (d.d1 ++ d.d2).toNat then 2048 else 0) := by
  have hd2 := d.d2.isLt
  have hsign : d.d1.getLsbD 7 = true ↔ 2 ^ 15 ≤ (d.d1 ++ d.d2).toNat := by
    rw [← BitVec.msb_eq_getLsbD_last d.d1, BitVec.msb_eq_decide, decide_eq_true_iff, toNat_append_eq]
    omega
  have hfield : (f16MantField d).toNat = (d.d1 ++ d.d2).toNat % 2 ^ 11 := by
    rw [f16MantField, toNat_append_eq, toNat_extractLsb'_eq, toNat_append_eq]
    omega
  simp only [f16Mantissa, hsign, hfield]
  split <;> omega

theorem f16Mantissa_mem (d : Lanes) : -2048 ≤ f16Mantissa d ∧ f16Mantissa d ≤ 2047 := by
  rw [f16Mantissa_eq]
  split <;> omega

theorem f16Exponent_le (d : Lanes) : f16Exponent d ≤ 15 := by
  rw [f16Exponent_eq]
  omega

end Sys2Proof.Machine
end

section
/-! The family of 43_float16.md: what PACK.F16 answers for every operand, what UNPACK.F16 answers for every payload, the
loop between them, and the bit packing. -/

namespace Sys2Proof.Machine

/-! ### The loop and the packing -/

/-- Settles O22, by the least number of halvings that brings the mantissa into range. -/
theorem renormIsTheLoop : Obligations.RenormIsTheLoop := by
  refine ⟨tdiv2_eq_trunc, fun m0 hlow hup => ?_⟩
  obtain ⟨k, hk, hrenorm, hin, hout⟩ := renorm_sixteen hlow hup
  refine ⟨k, hk, hrenorm, (inMantissaRange_iff _).mp hin, fun j hj hmem => ?_⟩
  rw [← inMantissaRange_iff, hout j hj] at hmem
  cases hmem

/-- The two bytes of a payload are the payload. -/
theorem append_payload_bytes (p : BitVec 16) : p.extractLsb' 8 8 ++ p.extractLsb' 0 8 = p :=
  (BitVec.extractLsb'_append_extractLsb'_eq_extractLsb' (start₁ := 0) rfl).trans BitVec.extractLsb'_eq_self

/-- Extraction inverts packing (R117, R120). -/
theorem fields_of_f16Payload {m : Int} {e : Nat} (hmin : -2048 ≤ m) (hmax : m ≤ 2047) (he : e ≤ 15) {d : Lanes}
    (hd : d.d1 ++ d.d2 = f16Payload m e) : f16Mantissa d = m ∧ f16Exponent d = e := by
  rw [f16Mantissa_eq, f16Exponent_eq, hd, toNat_f16Payload hmin hmax he]
  by_cases hm : m < 0
  · rw [if_pos hm, if_pos hm, if_pos (by omega)]
    omega
  · rw [if_neg hm, if_neg hm, if_neg (by omega)]
    omega

/-- Settles O24: the two bytes are the payload, whose number is the sum of its fields. -/
theorem f16BitPacking : Obligations.F16BitPacking := fun m e hmin hmax he =>
  ⟨_, _, f16Frame_eq_payload m e, by rw [append_payload_bytes, toNat_f16Payload hmin hmax he],
    fun _ _ _ => fields_of_f16Payload hmin hmax he (append_payload_bytes _)⟩

/-! ### PACK.F16 -/

theorem packF16_posInf (mode : F16Arith) : packF16 mode 0x7F800000 = packReal mode (clampUpper mode) := rfl

theorem packF16_negInf (mode : F16Arith) : packF16 mode 0xFF800000 = packReal mode (clampLower mode) := rfl

/-- The bounds of the clamp are `q(2047, 15)` and `q(-2048, 15)` under EXACT; under BINARY32 the upper one is rounded
below it, and the product `100 * U32` is 67076092 (R119, R129). -/
theorem provisional_bounds :
    provisional .exact (clampUpper .exact) = 67076096 ∧ provisional .exact (clampLower .exact) = -67108864 ∧
      provisional .binary32 (clampUpper .binary32) = 67076092 ∧
      provisional .binary32 (clampLower .binary32) = -67108864 := by decide +kernel

/-- Both infinities in both modes: only `U32` packs to another frame than its bound under EXACT (R129). -/
theorem packF16_infinities :
    packF16 .exact 0x7F800000 = [0x00, 0x7F, 0xFF] ∧ packF16 .exact 0xFF800000 = [0x00, 0xF8, 0x00] ∧
      packF16 .binary32 0x7F800000 = [0x00, 0x7F, 0xFE] ∧ packF16 .binary32 0xFF800000 = [0x00, 0xF8, 0x00] := by
  obtain ⟨hup, hlow, hup32, hlow32⟩ := provisional_bounds
  simp only [packF16_posInf, packF16_negInf, packReal, hup, hlow, hup32, hlow32]
  decide

/-- PACK.F16 completes with the frame's two bytes in the lanes (R118). -/
theorem exec_packF16_of_frame {x : Word} {b1 b2 : Byte} (h : packF16 .exact x = [0x00, b1, b2]) (s : State) :
    exec (.packF16 x) s = .next (s.withFrame 3 ⟨0, b1, b2, 0, 0⟩) := by
  rw [execPackF16_eq, h]
  rfl

theorem exec_packF16_nan {x : Word} (h : isNaN x = true) (s : State) :
    exec (.packF16 x) s = .next (s.withFrame 3 ⟨0, 0x7F, 0xFF, 0, 0⟩) :=
  exec_packF16_of_frame (packF16_nan h) s

/-- A finite operand: the closed form of its clamped and truncated product, packed (R112 to R118). -/
theorem exec_packF16_finite {x : Word} (h : isFinite x = true) (s : State) : ∃ (m : Int) (e : Nat),
    IsClosedForm (provisional .exact (val32 x)) m e ∧ exec (.packF16 x) s = .next (s.withFrame 3 (f16Lanes m e)) := by
  obtain ⟨hlow, hup⟩ := provisional_exact_mem (val32 x)
  refine ⟨_, _, renorm_isClosedForm hlow hup, ?_⟩
  rw [execPackF16_eq, packF16_finite h, packReal, lanesOfFrame_f16Frame]

/-- Settles O18: a NaN has its own frame, an infinity is its bound. -/
theorem packF16SpecialInputs : Obligations.PackF16SpecialInputs := by
  obtain ⟨hpos, hneg, hpos32, hneg32⟩ := packF16_infinities
  exact ⟨fun _ _ hexp hfrac => packF16_nan (isNaN_of_fields hexp hfrac), hpos, hneg, hpos32, hneg32,
    fun _ s hexp hfrac => exec_packF16_nan (isNaN_of_fields hexp hfrac) s,
    fun s => ⟨exec_packF16_of_frame hpos s, exec_packF16_of_frame hneg s⟩⟩

/-- Settles O17, by the class of the operand. -/
theorem packF16Result : Obligations.PackF16Result := by
  obtain ⟨hpos, hneg, -⟩ := packF16_infinities
  refine ⟨fun _ _ => decode_of_packOp .float16, fun x s => ⟨?nan, ?posInf, ?negInf, ?finite⟩⟩
  case nan => exact fun ⟨hexp, hfrac⟩ => exec_packF16_nan (isNaN_of_fields hexp hfrac) s
  case posInf => exact fun hx => exec_packF16_of_frame (hx ▸ hpos) s
  case negInf => exact fun hx => exec_packF16_of_frame (hx ▸ hneg) s
  case finite =>
    intro hexp
    rw [← clampF_exact_eq]
    exact exec_packF16_finite (isFinite_of_fields hexp) s

/-! ### UNPACK.F16 -/

/-- Settles O13: the fields are the model's, with the ranges their widths give. -/
theorem unpackF16Fields : Obligations.UnpackF16Fields := by
  refine ⟨fun _ _ => decode_of_unpackOp .float16, fun n d s => ?_⟩
  obtain ⟨hmin, hmax⟩ := f16Mantissa_mem d
  refine ⟨f16Mantissa d, f16Exponent d, ?_, rfl, hmin, hmax, f16Exponent_le d, execUnpackF16_eq n d s⟩
  unfold f16Mantissa f16MantField
  split
  · rfl
  · exact (sub_zero _).symm

/-- Every encoding is 0, or between 0.01 and the bound of its sign in magnitude (R111, R112). -/
theorem f16Value_cases {m : Int} {e : Nat} (hmin : -2048 ≤ m) (hmax : m ≤ 2047) (he : e ≤ 15) :
    f16Value m e = 0 ∨ (1 / 100 ≤ f16Value m e ∧ f16Value m e ≤ upperBound) ∨
      (1 / 100 ≤ -f16Value m e ∧ -f16Value m e ≤ -lowerBound) := by
  have hpow : (1 : ℚ) ≤ 2 ^ e := one_le_pow₀ (by norm_num)
  have hpow' : (2 : ℚ) ^ e ≤ 2 ^ 15 := pow_le_pow_right₀ (by norm_num) he
  unfold f16Value upperBound lowerBound
  rcases lt_trichotomy m 0 with hm | rfl | hm
  · have hm1 : (m : ℚ) ≤ -1 := by exact_mod_cast (by omega : m ≤ -1)
    have hm2 : (-2048 : ℚ) ≤ m := by exact_mod_cast hmin
    exact .inr (.inr ⟨by nlinarith, by nlinarith⟩)
  · exact .inl (by norm_num)
  · have hm1 : (1 : ℚ) ≤ m := by exact_mod_cast hm
    have hm2 : (m : ℚ) ≤ 2047 := by exact_mod_cast hmax
    exact .inr (.inl ⟨by nlinarith, by nlinarith⟩)

/-- The words of 0.01 and of the two bounds (R121). -/
theorem roundMagnitude_bounds : roundMagnitude (1 / 100) = 0x3C23D70A ∧ roundMagnitude upperBound = 0x4923C28F ∧
    roundMagnitude (-lowerBound) = 0x4923D70A := by decide +kernel

/-- What every result of UNPACK.F16 is: +0.0, or a word between those of 0.01 and `U`, or the same with the sign bit
up to that of `L` (R121). -/
theorem rne32_f16Value_cases {m : Int} {e : Nat} (hmin : -2048 ≤ m) (hmax : m ≤ 2047) (he : e ≤ 15) :
    rne32 (f16Value m e) = 0 ∨
      (0x3C23D70A ≤ (rne32 (f16Value m e)).toNat ∧ (rne32 (f16Value m e)).toNat ≤ 0x4923C28F) ∨
      (0xBC23D70A ≤ (rne32 (f16Value m e)).toNat ∧ (rne32 (f16Value m e)).toNat ≤ 0xC923D70A) := by
  obtain ⟨hcent, hupper, hlower⟩ := roundMagnitude_bounds
  rcases f16Value_cases hmin hmax he with hq | ⟨hlow, hup⟩ | ⟨hlow, hup⟩
  · rw [hq]
    exact .inl rne32_zero
  · have hpos : 0 < f16Value m e := by linarith
    have h1 := roundMagnitude_mono (by norm_num) hlow
    have h2 := roundMagnitude_mono hpos hup
    rw [toNat_rne32_of_pos hpos]
    exact .inr (.inl (by omega))
  · have hneg : f16Value m e < 0 := by linarith
    have h1 := roundMagnitude_mono (by norm_num) hlow
    have h2 := roundMagnitude_mono (neg_pos.mpr hneg) hup
    rw [toNat_rne32_of_neg hneg]
    exact .inr (.inr (by omega))

/-- The result is never NaN, infinity, -0.0 or subnormal, and lies between the extremes (R121). -/
theorem rne32_f16Value_regular {m : Int} {e : Nat} (hmin : -2048 ≤ m) (hmax : m ≤ 2047) (he : e ≤ 15) :
    expField (rne32 (f16Value m e)) ≠ 0xFF ∧
      (expField (rne32 (f16Value m e)) = 0 → rne32 (f16Value m e) = 0) ∧
      val32 0xC923D70A ≤ val32 (rne32 (f16Value m e)) ∧ val32 (rne32 (f16Value m e)) ≤ val32 0x4923C28F := by
  have hcases := rne32_f16Value_cases hmin hmax he
  generalize rne32 (f16Value m e) = w at hcases ⊢
  have hexp := expField_eq w
  have hmin32 : val32 0xC923D70A = -magnitude32 0xC923D70A := val32_of_ge (by decide)
  have hmax32 : val32 0x4923C28F = magnitude32 0x4923C28F := val32_of_lt (by decide)
  have hnonneg := magnitude32_nonneg
  rw [hmin32, hmax32]
  rcases hcases with rfl | ⟨hlow, hup⟩ | ⟨hlow, hup⟩
  · exact ⟨by decide, fun _ => rfl, by decide +kernel⟩
  · have hval : val32 w = magnitude32 w := val32_of_lt (by omega)
    have hmono : magnitude32 w ≤ magnitude32 0x4923C28F := magnitude32_mono (by
      change w.toNat % 2 ^ 31 ≤ 0x4923C28F
      omega)
    rw [hval]
    exact ⟨by omega, by omega, by linarith [hnonneg w, hnonneg 0xC923D70A], hmono⟩
  · have hval : val32 w = -magnitude32 w := val32_of_ge (by omega)
    have hmono : magnitude32 w ≤ magnitude32 0xC923D70A := magnitude32_mono (by
      change w.toNat % 2 ^ 31 ≤ 0x4923D70A
      omega)
    rw [hval]
    exact ⟨by omega, by omega, neg_le_neg hmono, by linarith [hnonneg w, hnonneg 0x4923C28F]⟩

/-- UNPACK.F16 of the layout's length (R121). -/
theorem exec_unpackF16_three (d : Lanes) (s : State) :
    exec (.unpackF16 3 d) s = .next (s.withValue (rne32 (f16Value (f16Mantissa d) (f16Exponent d))) false) :=
  exec_unpackInstr_frameLen .float16 d s

/-- UNPACK.F16 of the payload of `(m, e)`, whatever the header and the lanes beyond (R120, R121). -/
theorem exec_unpackF16_of_payload {m : Int} {e : Nat} (hmin : -2048 ≤ m) (hmax : m ≤ 2047) (he : e ≤ 15)
    {b1 b2 : Byte} (hb : b1 ++ b2 = f16Payload m e) (h a b : Byte) (s : State) :
    exec (.unpackF16 3 ⟨h, b1, b2, a, b⟩) s = .next (s.withValue (rne32 (f16Value m e)) false) := by
  obtain ⟨hm, he⟩ := fields_of_f16Payload hmin hmax he (d := ⟨h, b1, b2, a, b⟩) hb
  rw [exec_unpackF16_three, hm, he]

/-- The words of the greatest and the least encoding, and of payload `80 00` (R121). -/
theorem rne32_f16Value_extremes : rne32 (f16Value 2047 15) = 0x4923C28F ∧ rne32 (f16Value (-2048) 15) = 0xC923D70A ∧
    rne32 (f16Value (-2048) 0) = 0xC1A3D70A := by decide +kernel

/-- Settles O14: every encoding lies in the range where rounding keeps the order and stays normal. -/
theorem unpackF16Result : Obligations.UnpackF16Result := by
  obtain ⟨hgreatest, hleast, hminus⟩ := rne32_f16Value_extremes
  refine ⟨fun _ _ => decode_of_unpackOp .float16, fun n d s h => exec_unpackInstr_of_ne (l := .float16) h d s,
    fun d s => ⟨_, exec_unpackF16_three d s, rfl, fun hzero => ?_, ?_⟩,
    hgreatest ▸ exec_unpackF16_of_payload (by decide) (by decide) (by decide) (by decide),
    hleast ▸ exec_unpackF16_of_payload (by decide) (by decide) (by decide) (by decide),
    hminus ▸ exec_unpackF16_of_payload (by decide) (by decide) (by decide) (by decide)⟩
  · rw [hzero, f16Value, Int.cast_zero, zero_mul, zero_div]
    exact rne32_zero
  · obtain ⟨hmin, hmax⟩ := f16Mantissa_mem d
    exact rne32_f16Value_regular hmin hmax (f16Exponent_le d)

end Sys2Proof.Machine
end

section
/-! The family of 60_exceptions.md: which operations complete with an error (R141), what an error leaves (R142), and
that nothing stops the block (R145). -/

namespace Sys2Proof.Machine

/-- The presented length is not the one that an unpack's layout or CHKLEN expects (R76, R78). -/
def LengthMismatch (i : Instr) : Prop :=
  (∃ l n d, i = unpackInstr l n d ∧ n ≠ frameLen l) ∨ ∃ n expected, i = .chklen n expected ∧ n ≠ expected

/-- The reserved op codes (R62). -/
def IsReserved (i : Instr) : Prop := i = .reservedD ∨ i = .reservedE ∨ i = .reservedF

theorem exec_of_lengthMismatch {i : Instr} (h : LengthMismatch i) (s : State) :
    exec i s = .next (s.withError 1) := by
  obtain ⟨l, n, d, rfl, hne⟩ | ⟨n, expected, rfl, hne⟩ := h
  · exact exec_unpackInstr_of_ne hne d s
  · exact exec_chklen_of_ne hne s

theorem exec_of_isReserved {i : Instr} (h : IsReserved i) (s : State) : exec i s = .next (s.withError 2) := by
  obtain rfl | rfl | rfl := h <;> rfl

/-- An instruction is a pack, which answers a frame, or an unpack, or CHKLEN, or a reserved code (R54, R55). -/
theorem instr_kinds (i : Instr) :
    (∀ s, ∃ len d, exec i s = .next (s.withFrame len d)) ∨ (∃ l n d, i = unpackInstr l n d) ∨
      (∃ n expected, i = .chklen n expected) ∨ IsReserved i := by
  cases i with
  | packBool b => exact .inl fun s => ⟨_, _, execPackBool_eq b s⟩
  | packB3u control value => exact .inl fun s => ⟨_, _, execPackB3u_eq control value s⟩
  | packU8 v => exact .inl fun s => ⟨_, _, execPackU8_eq v s⟩
  | packU32 w => exact .inl fun s => ⟨_, _, execPackU32_eq w s⟩
  | packS32 v => exact .inl fun s => ⟨_, _, execPackU32_eq (u32 v) s⟩
  | packF16 x => exact .inl fun s => ⟨_, _, execPackF16_eq x s⟩
  | unpackBool n d => exact .inr (.inl ⟨.boolean, n, d, rfl⟩)
  | unpackB3u n d => exact .inr (.inl ⟨.bool3, n, d, rfl⟩)
  | unpackU8 n d => exact .inr (.inl ⟨.unsigned8, n, d, rfl⟩)
  | unpackU32 n d => exact .inr (.inl ⟨.unsigned32, n, d, rfl⟩)
  | unpackS32 n d => exact .inr (.inl ⟨.signed32, n, d, rfl⟩)
  | unpackF16 n d => exact .inr (.inl ⟨.float16, n, d, rfl⟩)
  | chklen n expected => exact .inr (.inr (.inl ⟨n, expected, rfl⟩))
  | reservedD => exact .inr (.inr (.inr (.inl rfl)))
  | reservedE => exact .inr (.inr (.inr (.inr (.inl rfl))))
  | reservedF => exact .inr (.inr (.inr (.inr (.inr rfl))))

/-- Without a length mismatch and a reserved code, the operation completes with OK (R141). -/
theorem exec_ok {i : Instr} (hlen : ¬ LengthMismatch i) (hres : ¬ IsReserved i) (s : State) :
    ∃ t, exec i s = .next t ∧ t.rspStatus = 0 := by
  obtain hpack | ⟨l, n, d, rfl⟩ | ⟨n, expected, rfl⟩ | h := instr_kinds i
  · obtain ⟨len, d, hx⟩ := hpack s
    exact ⟨_, hx, rfl⟩
  · obtain rfl : n = frameLen l := by_contra fun hne => hlen (.inl ⟨l, n, d, rfl, hne⟩)
    exact ⟨_, exec_unpackInstr_frameLen l d s, rfl⟩
  · obtain rfl : n = expected := by_contra fun hne => hlen (.inr ⟨n, expected, rfl, hne⟩)
    exact ⟨_, exec_chklen_self n s, rfl⟩
  · exact absurd h hres

/-- How an operation completes, with the cause of each error; no operation has both causes (R141). -/
theorem exec_completion (i : Instr) (s : State) :
    (¬ LengthMismatch i ∧ ¬ IsReserved i ∧ ∃ t, exec i s = .next t ∧ t.rspStatus = 0) ∨
    (LengthMismatch i ∧ ¬ IsReserved i ∧ exec i s = .next (s.withError 1)) ∨
    (¬ LengthMismatch i ∧ IsReserved i ∧ exec i s = .next (s.withError 2)) := by
  by_cases hlen : LengthMismatch i
  · have hx := exec_of_lengthMismatch hlen s
    refine .inr (.inl ⟨hlen, fun hres => ?_, hx⟩)
    have hcode : s.withError 1 = s.withError 2 := Host.Outcome.next.inj (hx.symm.trans (exec_of_isReserved hres s))
    exact absurd (congrArg (·.rspStatus) hcode) (by simp)
  · by_cases hres : IsReserved i
    · exact .inr (.inr ⟨hlen, hres, exec_of_isReserved hres s⟩)
    · exact .inl ⟨hlen, hres, exec_ok hlen hres s⟩

/-- Settles O41: each way to complete has its own code and its own cause. -/
theorem statusCodes : Obligations.StatusCodes := by
  intro i s
  obtain ⟨hlen, hres, t, hx, hok⟩ | ⟨hlen, hres, hx⟩ | ⟨hlen, hres, hx⟩ := exec_completion i s
  · exact ⟨t, hx, .inl hok, iff_of_false (by simp [hok]) hlen, iff_of_false (by simp [hok]) hres⟩
  · exact ⟨_, hx, .inr (.inl rfl), iff_of_true rfl hlen, iff_of_false (by simp) hres⟩
  · exact ⟨_, hx, .inr (.inr rfl), iff_of_false (by simp) hlen, iff_of_true rfl hres⟩

/-- A length mismatch is one of an unpack or of CHKLEN (R143). -/
theorem LengthMismatch.unpack_or_chklen {i : Instr} (h : LengthMismatch i) :
    (∃ l n d, i = unpackInstr l n d) ∨ ∃ n expected, i = .chklen n expected :=
  h.imp (fun ⟨l, n, d, hi, _⟩ => ⟨l, n, d, hi⟩) fun ⟨n, expected, hi, _⟩ => ⟨n, expected, hi⟩

/-- Settles O42: a status other than 0 is that of one of the two error outcomes. -/
theorem errorOutputs : Obligations.ErrorOutputs := by
  intro i s t ht hne
  obtain ⟨-, -, t', hx, hok⟩ | ⟨hlen, -, hx⟩ | ⟨-, hres, hx⟩ := exec_completion i s
  all_goals obtain rfl := Host.Outcome.next.inj (ht.symm.trans hx)
  · exact absurd hok hne
  · exact ⟨.inl ⟨rfl, rfl, hlen.unpack_or_chklen⟩, rfl, rfl, rfl, rfl, rfl⟩
  · exact ⟨.inr ⟨rfl, rfl, hres⟩, rfl, rfl, rfl, rfl, rfl⟩

/-- Any operation answers a next state with `RSP_VALID` 1, and leaves the reset flag and the host's edges (R145). -/
theorem exec_frame (i : Instr) (s : State) :
    ∃ t, exec i s = .next t ∧ t.rspValid = true ∧ t.resetSeen = s.resetSeen ∧ t.edges = s.edges := by
  obtain ⟨len, d, hx⟩ | ⟨v, c, hx⟩ | hx | hx := exec_cases i s
  all_goals exact ⟨_, hx, rfl, rfl, rfl⟩

/-- Settles O44: every edge is one of the block's update rule, and every operation loads the response registers only. -/
theorem nothingStopsTheBlock : Obligations.NothingStopsTheBlock :=
  ⟨fun s => ⟨_, step_eq_atEdge s, rfl⟩, exec_frame⟩

end Sys2Proof.Machine
end

section
/-! The family of 70_reset_and_hazards.md: what a reset edge and an idle edge leave (R161, R165), and that the block holds
no value before its first reset edge (R162). -/

namespace Sys2Proof.Machine

/-- Settles O47: the reset edge is sampled before the request is looked at. -/
theorem resetEdgeWins : Obligations.ResetEdgeWins := by
  intro s v r rest h
  have hrst : s.sampled.rst = true := by rw [sampled_cons h]
  rw [step_reset hrst, pastEdge_cons h, State.resetEdge_eq]

/-- Settles O48: with neither a reset nor a request sampled, the step is the idle edge. -/
theorem idleEdgeHolds : Obligations.IdleEdgeHolds := by
  intro s r rest h
  have hs := sampled_cons h
  rw [step_idle (by rw [hs]) (by rw [hs]), pastEdge_cons h]
  rfl

/-- Every lane of the empty frame is 0x00 (R60). -/
theorem lane_zero (i : Nat) : Lanes.zero.lane i = 0x00 := by
  match i with
  | 0 | 1 | 2 | 3 | 4 | _ + 5 => rfl

/-- Any edge answers a next state, whose registers hold values if they did before or the edge is a reset edge (R162). -/
theorem step_resetSeen (s : State) : ∃ t, step s = .next t ∧ t.resetSeen = (s.resetSeen || s.sampled.rst) := by
  cases hrst : s.sampled.rst with
  | true => exact ⟨_, step_reset hrst, by simp⟩
  | false =>
    cases hreq : s.sampled.reqValid with
    | true =>
      obtain ⟨t, hx, -, hseen, -⟩ := exec_frame (decode s.sampled.req) s.pastEdge
      exact ⟨t, (step_request hrst hreq).trans hx, by simp [hseen]⟩
    | false => exact ⟨_, step_idle hrst hreq, by simp⟩

/-- Settles O50: the registers of the reset state, and the reset flag through every kind of edge. -/
theorem resetValues : Obligations.ResetValues :=
  ⟨⟨rfl, rfl, rfl, fun i _ => lane_zero i, rfl, rfl, rfl⟩, fun _ => rfl, fun _ => readOutputs_before_reset,
    step_resetSeen⟩

end Sys2Proof.Machine
end

section
/-! What the table of op codes answers, row by kind of row (R61): a pack its layout's frame, an unpack a value or an
error, CHKLEN its verdict, a reserved code an error. -/

namespace Sys2Proof.Machine

/-! ### The kinds of op code -/

theorem isPackOp_of_even {op : BitVec 4} {l : Layout} (h : op.toNat = 2 * layoutNumber l) : isPackOp op = true := by
  obtain rfl : op = BitVec.ofNat 4 (2 * layoutNumber l) := BitVec.eq_of_toNat_eq (by rw [h]; cases l <;> rfl)
  cases l <;> rfl

theorem isUnpackOp_of_odd {op : BitVec 4} {l : Layout} (h : op.toNat = 2 * layoutNumber l + 1) :
    isUnpackOp op = true := by
  obtain rfl : op = BitVec.ofNat 4 (2 * layoutNumber l + 1) := BitVec.eq_of_toNat_eq (by rw [h]; cases l <;> rfl)
  cases l <;> rfl

/-- A code below 0xC with direction bit 0 is twice its layout's number (R54). -/
theorem exists_layout_of_packOp {op : BitVec 4} (h : op.toNat < 0xC) (hdir : op.getLsbD 0 = false) :
    ∃ l, op.toNat = 2 * layoutNumber l := by
  have hsplit := op_split op
  obtain ⟨l, hl⟩ := exists_layoutNumber (k := (op.extractLsb' 1 3).toNat) (by omega)
  rw [hdir, Bool.toNat_false] at hsplit
  exact ⟨l, by omega⟩

/-- Every code is a layout's pack or unpack, or CHKLEN's, or reserved (R54, R55). -/
theorem op_kinds (op : BitVec 4) : (∃ l, op.toNat = 2 * layoutNumber l) ∨ (∃ l, op.toNat = 2 * layoutNumber l + 1) ∨
    op.toNat = 0xC ∨ 0xD ≤ op.toNat := by
  by_cases h : op.toNat < 0xC
  · have hsplit := op_split op
    obtain ⟨l, hl⟩ := exists_layoutNumber (k := (op.extractLsb' 1 3).toNat) (by omega)
    have hbit := Bool.toNat_le (op.getLsbD 0)
    rcases (by omega : (op.getLsbD 0).toNat = 0 ∨ (op.getLsbD 0).toNat = 1) with hdir | hdir
    · exact .inl ⟨l, by omega⟩
    · exact .inr (.inl ⟨l, by omega⟩)
  · exact .inr (.inr (by omega))

/-! ### The rows of the table -/

/-- The frame of each pack has its layout's length (R58). -/
theorem resp_of_packOp (mode : F16Arith) {lenW : Nat} {r : Request lenW} {l : Layout}
    (h : r.op.toNat = 2 * layoutNumber l) : ∃ f : Frame, f.length = frameLen l ∧ resp mode r = okFrame f := by
  unfold resp
  rw [h]
  cases l with
  | boolean | bool3 | unsigned8 | unsigned32 | signed32 => exact ⟨_, rfl, rfl⟩
  | float16 =>
    obtain ⟨b1, b2, hframe⟩ := packF16_shape mode r.arg
    exact ⟨packF16 mode r.arg, by rw [hframe]; rfl, rfl⟩

/-- A result turned into a value response: the value outputs, or an error's. -/
theorem responseOf_okValue_cases {α : Type} (x : Except Raise α) (v : α → Word) (c : α → Bool) :
    (∃ v' c', responseOf (do let a ← x; return okValue (v a) (c a)) = okValue v' c') ∨
      ∃ e, responseOf (do let a ← x; return okValue (v a) (c a)) = errResponse e := by
  cases x with
  | ok a => exact .inl ⟨v a, c a, rfl⟩
  | error e => exact .inr ⟨e, rfl⟩

theorem resp_of_unpackOp (mode : F16Arith) {lenW : Nat} {r : Request lenW} {l : Layout}
    (h : r.op.toNat = 2 * layoutNumber l + 1) :
    (∃ v c, resp mode r = okValue v c) ∨ ∃ e, resp mode r = errResponse e := by
  unfold resp
  rw [h]
  cases l <;> exact responseOf_okValue_cases _ _ _

theorem resp_of_chklen (mode : F16Arith) {lenW : Nat} {r : Request lenW} (h : r.op.toNat = 0xC) :
    resp mode r = okValue 0 false ∨ resp mode r = errResponse .invalidLength := by
  unfold resp
  rw [h]
  change responseOf (chklen _ _) = _ ∨ responseOf (chklen _ _) = _
  rw [chklen_eq]
  split
  · exact .inl rfl
  · exact .inr rfl

theorem resp_of_reserved (mode : F16Arith) {lenW : Nat} {r : Request lenW} (h : 0xD ≤ r.op.toNat) :
    resp mode r = errResponse .illegalOp := by
  obtain ⟨k, hk⟩ := Nat.exists_eq_add_of_le' h
  unfold resp
  rw [hk]
  rfl

/-- Every frame length fits `RSP_LEN` (R58). -/
theorem toNat_ofNat_frameLen (l : Layout) : (BitVec.ofNat 3 (frameLen l)).toNat = frameLen l := by
  cases l <;> rfl

/-- The lanes beyond a frame's length are 0x00 (R60). -/
theorem lane_lanesOfFrame_of_le {f : Frame} {i : Nat} (h : f.length ≤ i) : (lanesOfFrame f).lane i = 0 := by
  have hbeyond : f.getD i 0 = 0 := List.getD_eq_default _ _ h
  match i with
  | 0 | 1 | 2 | 3 | 4 => exact hbeyond
  | _ + 5 => rfl

/-- Settles O43: a pack answers its layout's frame, in the lanes below its length. -/
theorem packsNeverFail : Obligations.PacksNeverFail := by
  intro lenW r s hlt hdir
  obtain ⟨l, hop⟩ := exists_layout_of_packOp hlt hdir
  obtain ⟨f, hlen, hresp⟩ := resp_of_packOp Config.f16Arith hop
  refine ⟨l, lanesOfFrame f, layoutOf_decode_of_even hop, ?_, fun i hi => lane_lanesOfFrame_of_le (hlen.trans_le hi)⟩
  rw [exec_decode, hresp, accept_okFrame, hlen]

end Sys2Proof.Machine
end

section
/-! The family of 10_state.md section 2: the legal values of the response registers are an invariant (R24), and the
edges that no rule of the spec but the model's log speaks of. -/

namespace Sys2Proof.Machine

/-! ### Each kind of edge leaves legal registers -/

theorem statusOk_ne_three : statusOk ≠ 3 := by decide

theorem statusOf_ne_three (x : Raise) : statusOf x ≠ 3 := by cases x <;> decide

theorem Registers.legal_afterReset (last : Option (BitVec 4)) : Registers.afterReset.Legal last :=
  ⟨by decide, .inl rfl, fun h => absurd rfl h, fun i _ _ => lane_zero i, fun h => absurd h (by decide)⟩

/-- An idle edge touches none of the registers that the invariants speak of (R165). -/
theorem Registers.Legal.idle {g : Registers} {last : Option (BitVec 4)} (h : g.Legal last) : g.idle.Legal last := h

/-- The frame of a pack: a legal length that says how many lanes are in use. -/
theorem Registers.legal_accept_okFrame (g : Registers) {f : Frame} {l : Layout} {op : BitVec 4}
    (hlen : f.length = frameLen l) (hop : isPackOp op = true) : (g.accept (okFrame f)).Legal (some op) := by
  have hrspLen : (g.accept (okFrame f)).rspLen = BitVec.ofNat 3 (frameLen l) := congrArg (BitVec.ofNat 3) hlen
  refine ⟨statusOk_ne_three, ?_, fun _ => ⟨rfl, op, rfl, hop⟩, fun i _ hi => ?_, fun h => absurd h (by simp [okFrame])⟩
  · rw [hrspLen]
    cases l <;> decide
  · rw [hrspLen, toNat_ofNat_frameLen] at hi
    exact lane_lanesOfFrame_of_le (hlen.trans_le hi)

/-- A value: no frame, and a nonzero value only of an unpack. -/
theorem Registers.legal_accept_okValue (g : Registers) {v : Word} {c : Bool} {op : BitVec 4}
    (hop : v ≠ 0 ∨ c = true → isUnpackOp op = true) : (g.accept (okValue v c)).Legal (some op) :=
  ⟨statusOk_ne_three, .inl rfl, fun h => absurd rfl h, fun i _ _ => lane_zero i, fun h => ⟨rfl, op, rfl, hop h⟩⟩

/-- An error: its code, and every other output 0 (R142). -/
theorem Registers.legal_accept_errResponse (g : Registers) (x : Raise) (last : Option (BitVec 4)) :
    (g.accept (errResponse x)).Legal last :=
  ⟨statusOf_ne_three x, .inl rfl, fun h => absurd rfl h, fun i _ _ => lane_zero i,
    fun h => absurd h (by simp [errResponse])⟩

/-- Whatever the registers held, an accepted request leaves legal ones (R23, R24). -/
theorem Registers.legal_accept_resp (g : Registers) (mode : F16Arith) {lenW : Nat} (r : Request lenW) :
    (g.accept (resp mode r)).Legal (some r.op) := by
  obtain ⟨l, hop⟩ | ⟨l, hop⟩ | hop | hop := op_kinds r.op
  · obtain ⟨f, hlen, hresp⟩ := resp_of_packOp mode hop
    exact hresp ▸ g.legal_accept_okFrame hlen (isPackOp_of_even hop)
  · obtain ⟨v, c, hresp⟩ | ⟨e, hresp⟩ := resp_of_unpackOp mode hop
    · exact hresp ▸ g.legal_accept_okValue fun _ => isUnpackOp_of_odd hop
    · exact hresp ▸ g.legal_accept_errResponse e _
  · obtain hresp | hresp := resp_of_chklen mode hop
    · exact hresp ▸ g.legal_accept_okValue fun h => absurd h (by decide)
    · exact hresp ▸ g.legal_accept_errResponse _ _
  · exact resp_of_reserved mode hop ▸ g.legal_accept_errResponse _ _

/-- The invariant through any edge of a block with any parameters (R23, R24). -/
theorem Registers.Legal.atEdge {p : Params} {g : Registers} {last : Option (BitVec 4)} (h : g.Legal last)
    (e : EdgeOf p.lenW) : (g.atEdge p e).Legal (lastAccepted last e) := by
  cases hrst : e.rst with
  | true => rw [atEdge_reset g hrst]; exact legal_afterReset _
  | false =>
    cases hreq : e.reqValid with
    | true =>
      rw [atEdge_request g hrst hreq, lastAccepted, if_neg (by simp [hrst]), if_pos hreq]
      exact g.legal_accept_resp p.f16Arith e.req
    | false =>
      rw [atEdge_idle g hrst hreq, lastAccepted, if_neg (by simp [hrst]), if_neg (by simp [hreq])]
      exact h.idle

/-- Settles O52: the invariant through one edge, for this hardware by the update rule that its step follows. -/
theorem legalIsInvariant : Obligations.LegalIsInvariant :=
  ⟨fun s _ h => ⟨_, step_eq_atEdge s, Registers.Legal.atEdge (p := Config.params) h s.sampled⟩,
    fun p b _ h => h.atEdge (nextEdge p.lenW b.edges)⟩

/-- Settles O53: the reset state has the registers that a reset edge leaves. -/
theorem resetIsLegal : Obligations.ResetIsLegal :=
  ⟨Registers.legal_afterReset none, fun _ h => ⟨_, step_reset h, Registers.legal_afterReset none⟩⟩

/-- Settles O49: with no edge listed the host's edge is the idle one, and there is none to consume. -/
theorem noEdgeListedIsIdle : Obligations.NoEdgeListedIsIdle := by
  intro s h
  have hs : s.sampled = Edge.idle := by rw [State.sampled, h]; rfl
  have hpast : s.pastEdge = s := State.ext_fields rfl rfl rfl rfl rfl rfl rfl (by simp [h])
  rw [step_idle (by rw [hs]; rfl) (by rw [hs]; rfl), hpast]
  rfl

/-- Where the bytes read as a request, they decode as that request does (log 3). -/
theorem decodeBytes_of_requestOfBytes {lenW : Nat} {bs : List Byte} {r : Request lenW}
    (h : requestOfBytes lenW bs = .ok r) : decodeBytes lenW bs = .ok (decode r) := by
  rw [decodeBytes, h]

/-- Settles O54: the step of a listed request, and the byte form as the request it reads as. -/
theorem stepRunsTheDecodedInstruction : Obligations.StepRunsTheDecodedInstruction := by
  refine ⟨fun s r rest i hedges hdec _ => ?_, fun bs r i hreq hbytes => ?_⟩
  · have hs := sampled_cons hedges
    rw [step_request (by rw [hs]; rfl) (by rw [hs]; rfl), hs, pastEdge_cons hedges, ← hdec]
    rfl
  · exact Except.ok.inj ((decodeBytes_of_requestOfBytes hreq).symm.trans hbytes)

/-- Settles O39: a layout's two codes, CHKLEN's, and the reserved ones. -/
theorem opMap : Obligations.OpMap := fun _ r =>
  ⟨decode_of_packOp .boolean, decode_of_unpackOp .boolean, decode_of_packOp .bool3, decode_of_unpackOp .bool3,
    decode_of_packOp .unsigned8, decode_of_unpackOp .unsigned8, decode_of_packOp .unsigned32,
    decode_of_unpackOp .unsigned32, fun h => s32_eq_toInt r.arg ▸ decode_of_packOp .signed32 h,
    decode_of_unpackOp .signed32, decode_of_packOp .float16, decode_of_unpackOp .float16, fun _ => decode_of_chklen,
    reservedOpsResult.1 _ r⟩

end Sys2Proof.Machine
end

section
/-! The packed form of a request (log 3): its fields as the digits of one number, its bytes, and what the decoder reads
from them. -/

namespace Sys2Proof.Machine

/-! ### Reading the lowest field, and the fields above it -/

/-- The field at bit `p`, and what stands above it at bit `q`. -/
theorem field_at {w p q k t : Nat} {x : BitVec k} (h : w >>> p = x.toNat + 2 ^ k * t) (hq : q = p + k) :
    BitVec.ofNat k (w >>> p) = x ∧ w >>> q = t := by
  constructor
  · apply BitVec.eq_of_toNat_eq
    rw [h, BitVec.toNat_ofNat, Nat.add_mul_mod_self_left, Nat.mod_eq_of_lt x.isLt]
  · rw [hq, Nat.shiftRight_add, h, Nat.shiftRight_eq_div_pow, Nat.add_mul_div_left _ _ (Nat.two_pow_pos k),
      Nat.div_eq_of_lt x.isLt, Nat.zero_add]

/-- The one-bit field at bit `p`, and what stands above it. -/
theorem flag_at {w p t : Nat} {b : Bool} (h : w >>> p = b.toNat + 2 * t) : w.testBit p = b ∧ w >>> (p + 1) = t := by
  have hb := Bool.toNat_le b
  constructor
  · have hbit : w.testBit p = (w >>> p).testBit 0 := by rw [Nat.testBit_shiftRight, Nat.add_zero]
    rw [hbit, h, Nat.testBit_zero]
    cases b <;> simp
  · rw [Nat.shiftRight_add, h, Nat.shiftRight_eq_div_pow]
    omega

/-- The fields of a packed request are the request's. -/
theorem requestOfNat_natOfRequest {lenW : Nat} (r : Request lenW) : requestOfNat lenW (natOfRequest r) = r := by
  obtain ⟨op, ctl, arg, len, ⟨d0, d1, d2, d3, d4⟩⟩ := r
  unfold requestOfNat
  generalize hw : natOfRequest _ = w
  obtain ⟨hop, h4⟩ := field_at (p := 0) (q := 4) hw.symm rfl
  obtain ⟨hctl, h5⟩ := flag_at h4
  obtain ⟨harg, h37⟩ := field_at (q := 37) h5 rfl
  obtain ⟨hlen, hd⟩ := field_at (q := 37 + lenW) h37 rfl
  obtain ⟨hd0, hd⟩ := field_at (q := 45 + lenW) hd (by omega)
  obtain ⟨hd1, hd⟩ := field_at (q := 53 + lenW) hd (by omega)
  obtain ⟨hd2, hd⟩ := field_at (q := 61 + lenW) hd (by omega)
  obtain ⟨hd3, hd⟩ := field_at (q := 69 + lenW) hd (by omega)
  obtain ⟨hd4, -⟩ := field_at (q := 77 + lenW) (t := 0) hd (by omega)
  rw [Nat.shiftRight_zero] at hop
  simp only [hop, hctl, harg, hlen, hd0, hd1, hd2, hd3, hd4]

theorem add_two_pow_mul_lt {k n a b : Nat} (ha : a < 2 ^ k) (hb : b < 2 ^ n) : a + 2 ^ k * b < 2 ^ (k + n) :=
  calc a + 2 ^ k * b < 2 ^ k * (b + 1) := by rw [Nat.mul_succ]; omega
    _ ≤ 2 ^ k * 2 ^ n := Nat.mul_le_mul_left _ hb
    _ = 2 ^ (k + n) := (pow_add 2 k n).symm

/-- A packed request takes as many bits as its fields (R53). -/
theorem natOfRequest_lt {lenW : Nat} (r : Request lenW) : natOfRequest r < 2 ^ requestBits lenW := by
  have hd := add_two_pow_mul_lt r.inData.d0.isLt (add_two_pow_mul_lt r.inData.d1.isLt
    (add_two_pow_mul_lt r.inData.d2.isLt (add_two_pow_mul_lt r.inData.d3.isLt r.inData.d4.isLt)))
  have hrest := add_two_pow_mul_lt r.arg.isLt (add_two_pow_mul_lt r.inLen.isLt hd)
  have hall := add_two_pow_mul_lt r.op.isLt (add_two_pow_mul_lt (k := 1) (Bool.toNat_lt r.inCtl) hrest)
  rwa [show 4 + (1 + (32 + (lenW + (8 + (8 + (8 + (8 + 8))))))) = requestBits lenW by unfold requestBits; omega] at hall

/-- Bits above a field do not matter to it. -/
theorem ofNat_shiftRight_mod {j k n : Nat} (h : j + k ≤ n) (w : Nat) :
    BitVec.ofNat k ((w % 2 ^ n) >>> j) = BitVec.ofNat k (w >>> j) := by
  apply BitVec.eq_of_getLsbD_eq
  intro i hi
  simp only [BitVec.getLsbD_ofNat, Nat.testBit_shiftRight, Nat.testBit_mod_two_pow, hi,
    decide_eq_true (show j + i < n by omega), Bool.true_and]

/-- Bits above the packed request do not matter to its fields. -/
theorem requestOfNat_mod {lenW n : Nat} (h : requestBits lenW ≤ n) (w : Nat) :
    requestOfNat lenW (w % 2 ^ n) = requestOfNat lenW w := by
  unfold requestBits at h
  have hop := ofNat_shiftRight_mod (j := 0) (k := 4) (n := n) (by omega) w
  rw [Nat.shiftRight_zero, Nat.shiftRight_zero] at hop
  simp only [requestOfNat, hop, Nat.testBit_mod_two_pow, decide_eq_true (show 4 < n by omega), Bool.true_and,
    ofNat_shiftRight_mod (show 5 + 32 ≤ n by omega), ofNat_shiftRight_mod (show 37 + lenW ≤ n by omega),
    ofNat_shiftRight_mod (show 37 + lenW + 8 ≤ n by omega), ofNat_shiftRight_mod (show 45 + lenW + 8 ≤ n by omega),
    ofNat_shiftRight_mod (show 53 + lenW + 8 ≤ n by omega), ofNat_shiftRight_mod (show 61 + lenW + 8 ≤ n by omega),
    ofNat_shiftRight_mod (show 69 + lenW + 8 ≤ n by omega)]

/-! ### The bytes -/

/-- As many bytes as a request takes hold all of its bits. -/
theorem requestBits_le_bytes (lenW : Nat) : requestBits lenW ≤ 8 * requestBytes lenW := by
  unfold requestBytes
  omega

theorem natOfBytes_bytesOfNat_eq_mod (count w : Nat) : natOfBytes (bytesOfNat count w) = w % 2 ^ (8 * count) := by
  rw [natOfBytes_bytesOfNat, pow_mul]
  rfl

/-- The bytes of a packed request read as the request. -/
theorem requestOfBytes_natOfRequest {lenW : Nat} (r : Request lenW) :
    requestOfBytes lenW (bytesOfNat (requestBytes lenW) (natOfRequest r)) = .ok r := by
  have hlt := natOfRequest_lt r
  have hnat : natOfBytes (bytesOfNat (requestBytes lenW) (natOfRequest r)) = natOfRequest r := by
    rw [natOfBytes_bytesOfNat_eq_mod]
    exact Nat.mod_eq_of_lt (hlt.trans_le (Nat.pow_le_pow_right (by decide) (requestBits_le_bytes lenW)))
  rw [requestOfBytes, if_neg (not_not.mpr (bytesOfNat_length _ _)), hnat, if_neg (not_le.mpr hlt),
    requestOfNat_natOfRequest]

/-- The request that the encoder writes for a well-formed instruction decodes to it, by the instruction. -/
theorem decode_encode {i : Instr} (h : i.wf Config.lenW = true) : decode (encode Config.lenW i) = i := by
  have hstatement : Laws.EncodeDecode.Statement i := by
    cases i with
    | packBool b => exact Laws.EncodeDecode.packBool b
    | unpackBool n d => exact Laws.EncodeDecode.unpackBool n d
    | packB3u control value => exact Laws.EncodeDecode.packB3u control value
    | unpackB3u n d => exact Laws.EncodeDecode.unpackB3u n d
    | packU8 v => exact Laws.EncodeDecode.packU8 v
    | unpackU8 n d => exact Laws.EncodeDecode.unpackU8 n d
    | packU32 w => exact Laws.EncodeDecode.packU32 w
    | unpackU32 n d => exact Laws.EncodeDecode.unpackU32 n d
    | packS32 v => exact Laws.EncodeDecode.packS32 v
    | unpackS32 n d => exact Laws.EncodeDecode.unpackS32 n d
    | packF16 x => exact Laws.EncodeDecode.packF16 x
    | unpackF16 n d => exact Laws.EncodeDecode.unpackF16 n d
    | chklen n expected => exact Laws.EncodeDecode.chklen n expected
    | reservedD => exact Laws.EncodeDecode.reservedD
    | reservedE => exact Laws.EncodeDecode.reservedE
    | reservedF => exact Laws.EncodeDecode.reservedF
  exact (hstatement h).1

/-- Settles O56: the bytes read as the encoded request, which decodes to the instruction. -/
theorem decodeEncodeBytes : Obligations.DecodeEncodeBytes := fun i h =>
  ⟨bytesOfNat_length _ _, by
    rw [encodeBytes, decodeBytes_of_requestOfBytes (requestOfBytes_natOfRequest _), decode_encode h]⟩

/-- A byte sequence that the decoder reads is the bytes of a request, decoded. -/
theorem decodeBytes_ok {lenW : Nat} {bs : List Byte} {i : Instr} (h : decodeBytes lenW bs = .ok i) :
    decode (requestOfNat lenW (natOfBytes bs)) = i := by
  unfold decodeBytes requestOfBytes at h
  split at h
  case h_1 r hr =>
    split at hr
    · cases hr
    · split at hr
      · cases hr
      · exact Except.ok.inj hr ▸ Except.ok.inj h
  case h_2 => cases h

/-- What the decoder reads from a word is what its fields, as a request, decode to (log 3). -/
theorem decode_of_decodeTableWord {nbits w : Nat} {i : Instr} (h : decodeTableWord nbits w = some i) :
    decode (requestOfNat Config.lenW (w % 2 ^ nbits)) = i := by
  unfold decodeTableWord at h
  split at h
  case h_1 j hj =>
    have hdec := decodeBytes_ok hj
    rw [natOfBytes_bytesOfNat_eq_mod, requestOfNat_mod (requestBits_le_bytes Config.lenW)] at hdec
    exact hdec.trans (Option.some.inj h)
  case h_2 => cases h

/-- Settles O55: the word stands at the port as the request of its fields, which the step decodes. -/
theorem fetchWordRunsNext : Obligations.FetchWordRunsNext := by
  intro s nbits w i h
  have hs : (s.withFetchWord nbits w).sampled = Edge.request (requestOfNat Config.lenW (w % 2 ^ nbits)) := rfl
  rw [step_request (by rw [hs]; rfl) (by rw [hs]; rfl), hs]
  exact congrArg (exec · _) (decode_of_decodeTableWord h)

/-- Settles O59, by running the decoder on each word. -/
theorem knownWordsDecode : Obligations.KnownWordsDecode := by
  unfold Obligations.KnownWordsDecode
  decide +kernel

end Sys2Proof.Machine
end

section
/-! The request that a decoded instruction encodes to: the fields that its operation reads are the original's (R53,
R56). -/

namespace Sys2Proof.Machine

/-! ### What a request decodes to is well-formed -/

theorem wf_packInstr (lenW : Nat) (l : Layout) (control : Bool) (arg : Word) :
    (packInstr l control arg).wf lenW = true := by
  cases l with
  | boolean | bool3 | unsigned8 | unsigned32 | float16 => rfl
  | signed32 =>
    obtain ⟨hlow, hup⟩ := s32_bounds arg
    simp only [packInstr, Instr.wf, fitsSigned32, decide_eq_true hlow, decide_eq_true hup, Bool.and_self]

theorem fitsLength_toNat {lenW : Nat} (n : BitVec lenW) : fitsLength lenW n.toNat = true := decide_eq_true n.isLt

theorem wf_unpackInstr {lenW : Nat} (l : Layout) (n : BitVec lenW) (d : Lanes) :
    (unpackInstr l n.toNat d).wf lenW = true := by
  cases l <;> exact fitsLength_toNat n

theorem wf_chklen {lenW : Nat} (n : BitVec lenW) (arg : Word) :
    (Instr.chklen n.toNat (argLength lenW arg)).wf lenW = true := by
  rw [Instr.wf, fitsLength_toNat, fitsLength, decide_eq_true (argLength_lt lenW arg), Bool.and_self]

/-! ### The operand that an instruction carries, back in its field -/

theorem zextBit_argBit (arg : Word) : zextBit (argBit arg) &&& 1 = arg &&& 1 := by
  have hbit : arg &&& 1 = _ := BitVec.and_one_eq_setWidth_ofBool_getLsbD
  rw [hbit, argBit]
  cases arg.getLsbD 0 <;> rfl

theorem zext32_argByte (arg : Word) : zext32 8 (argByte arg) &&& 0xFF = arg &&& 0xFF := by
  apply BitVec.eq_of_toNat_eq
  have hmask : ∀ n : Nat, n &&& 255 = n % 2 ^ 8 := fun n => Nat.and_two_pow_sub_one_eq_mod n 8
  simp only [zext32, argByte, BitVec.toNat_and, BitVec.toNat_setWidth, toNat_extractLsb'_eq]
  change _ &&& 255 = _ &&& 255
  rw [hmask, hmask]
  omega

theorem ofNat_toNat_self {lenW : Nat} (n : BitVec lenW) : BitVec.ofNat lenW n.toNat = n := by
  rw [BitVec.ofNat_toNat, BitVec.setWidth_eq]

/-- A pack's operands, encoded again. -/
theorem readFields_encode_packOp {lenW : Nat} {r : Request lenW} {l : Layout}
    (h : r.op = BitVec.ofNat 4 (2 * layoutNumber l)) :
    readFields (encode lenW (packInstr l r.inCtl r.arg)) = readFields r := by
  obtain ⟨op, ctl, arg, len, d⟩ := r
  obtain rfl : op = _ := h
  have hencode (a a' : Word) (op : BitVec 4) (ctl : Bool) (ha : a = a') :
      ({ blankRequest lenW op with inCtl := ctl, arg := a } : Request lenW) =
        { blankRequest lenW op with inCtl := ctl, arg := a' } := by rw [ha]
  cases l with
  | boolean => exact hencode _ _ _ _ (zextBit_argBit arg)
  | bool3 => rfl
  | unsigned8 => exact hencode _ _ _ _ (zext32_argByte arg)
  | unsigned32 => rfl
  | signed32 => exact hencode _ _ _ _ (u32_s32 arg)
  | float16 => rfl

/-- An unpack's length and lanes, encoded again. -/
theorem readFields_encode_unpackOp {lenW : Nat} {r : Request lenW} {l : Layout}
    (h : r.op = BitVec.ofNat 4 (2 * layoutNumber l + 1)) :
    readFields (encode lenW (unpackInstr l r.inLen.toNat r.inData)) = readFields r := by
  obtain ⟨op, ctl, arg, len, d⟩ := r
  obtain rfl : op = _ := h
  cases l <;> simp only [unpackInstr, encode, unpackRequest, ofNat_toNat_self] <;> rfl

/-- CHKLEN's two lengths, encoded again. -/
theorem readFields_encode_chklen {lenW : Nat} {r : Request lenW} (h : r.op = 0xC) :
    readFields (encode lenW (.chklen r.inLen.toNat (argLength lenW r.arg))) = readFields r := by
  obtain ⟨op, ctl, arg, len, d⟩ := r
  obtain rfl : op = _ := h
  change ({ blankRequest lenW 0xC with
    inLen := BitVec.ofNat lenW len.toNat
    arg := BitVec.ofNat 32 (argLength lenW (BitVec.ofNat 32 (argLength lenW arg))) } : Request lenW) =
      { blankRequest lenW 0xC with inLen := len, arg := BitVec.ofNat 32 (argLength lenW arg) }
  rw [ofNat_toNat_self, argLength_mask]

/-- A request with a reserved code decodes to its reserved instruction, which has no operand (R62). -/
theorem encodeDecode_reserved {lenW : Nat} {r : Request lenW} (h : 0xD ≤ r.op.toNat) :
    (decode r).wf lenW = true ∧ readFields (encode lenW (decode r)) = readFields r := by
  have hlt := r.op.isLt
  obtain hop | hop | hop : r.op = 0xD ∨ r.op = 0xE ∨ r.op = 0xF := by bv_omega
  all_goals
    obtain ⟨op, ctl, arg, len, d⟩ := r
    obtain rfl : op = _ := hop
    exact ⟨rfl, rfl⟩

/-- Settles O57, by the kind of the op code. -/
theorem encodeDecodeRequest : Obligations.EncodeDecodeRequest := by
  intro lenW r
  have hkinds : (decode r).wf lenW = true ∧ readFields (encode lenW (decode r)) = readFields r := by
    obtain ⟨l, hop⟩ | ⟨l, hop⟩ | hop | hop := op_kinds r.op
    · have hop : r.op = BitVec.ofNat 4 (2 * layoutNumber l) := by rw [← hop, ofNat_toNat_self]
      rw [decode_of_packOp l hop]
      exact ⟨wf_packInstr lenW l _ _, readFields_encode_packOp hop⟩
    · have hop : r.op = BitVec.ofNat 4 (2 * layoutNumber l + 1) := by rw [← hop, ofNat_toNat_self]
      rw [decode_of_unpackOp l hop]
      exact ⟨wf_unpackInstr l _ _, readFields_encode_unpackOp hop⟩
    · have hop : r.op = 0xC := BitVec.eq_of_toNat_eq hop
      rw [decode_of_chklen hop]
      exact ⟨wf_chklen _ _, readFields_encode_chklen hop⟩
    · exact encodeDecode_reserved hop
  exact ⟨hkinds.1, opcode_decode r, hkinds.2, decode_of_chklen⟩

end Sys2Proof.Machine
end

section
/-! The serialised form of a request (R65): each field's digits read back as its value. -/

namespace Sys2Proof.Machine

theorem hexDigits_length (count n : Nat) : (hexDigits count n).length = count := by
  induction count generalizing n with
  | zero => rfl
  | succ k ih => rw [hexDigits, List.length_append, ih]; rfl

/-- A digit's character has its value. -/
theorem hexValue_hexChar {n : Nat} (h : n < 16) : hexValue (hexChar n) = some n := by
  have hall : ∀ k : Fin 16, hexValue (hexChar k) = some k.val := by decide
  exact hall ⟨n, h⟩

/-- Reading the digits of a number after other digits. -/
theorem digitsValue_hexDigits_append (count n acc : Nat) (rest : List Char) :
    digitsValue hexValue 16 acc (hexDigits count n ++ rest) =
      digitsValue hexValue 16 (acc * 16 ^ count + n % 16 ^ count) rest := by
  induction count generalizing n rest with
  | zero => simp [hexDigits, Nat.mod_one]
  | succ k ih =>
    have hdigits : (acc * 16 ^ k + n / 16 % 16 ^ k) * 16 + n % 16 = acc * 16 ^ (k + 1) + n % 16 ^ (k + 1) := by
      rw [Nat.pow_succ', Nat.mod_mul]
      ring
    rw [hexDigits, List.append_assoc, ih, List.singleton_append, digitsValue,
      hexValue_hexChar (Nat.mod_lt _ (by decide))]
    exact congrArg (digitsValue hexValue 16 · rest) hdigits

/-- A field's digits read back as its value, and the text after them is left. -/
theorem takeHex_hexDigits {count n : Nat} (h : n < 16 ^ count) (rest : List Char) :
    takeHex count (hexDigits count n ++ rest) = .ok (n, rest) := by
  have hlen := hexDigits_length count n
  have hvalue : digitsValue hexValue 16 0 (hexDigits count n) = some n := by
    rw [← List.append_nil (hexDigits count n), digitsValue_hexDigits_append, Nat.zero_mul, Nat.zero_add,
      Nat.mod_eq_of_lt h, digitsValue]
  rw [takeHex, if_neg (by rw [List.length_append]; omega), List.take_left' hlen, List.drop_left' hlen, hvalue]

theorem takeColon_cons (rest : List Char) : takeColon (':' :: rest) = .ok rest := rfl

theorem toNat_lt_lengthDigits {lenW : Nat} (n : BitVec lenW) : n.toNat < 16 ^ lengthDigits lenW :=
  calc n.toNat < 2 ^ lenW := n.isLt
    _ ≤ 2 ^ (4 * lengthDigits lenW) := Nat.pow_le_pow_right (by decide) (by unfold lengthDigits; omega)
    _ = 16 ^ lengthDigits lenW := pow_mul 2 4 _

/-- Every field of the text reads back, whatever `LEN_W`. -/
theorem parseSerial_serialise {lenW : Nat} (r : Request lenW) : parseSerial lenW (serialise r) = .ok r := by
  obtain ⟨op, ctl, arg, len, ⟨d0, d1, d2, d3, d4⟩⟩ := r
  have hctl : ctl.toNat < 2 := Bool.toNat_lt ctl
  have hlast := takeHex_hexDigits (count := 2) d4.isLt []
  rw [List.append_nil] at hlast
  simp only [serialise, parseSerial, List.append_assoc, List.cons_append, bind, Except.bind, takeColon_cons,
    takeHex_hexDigits (count := 1) op.isLt, takeHex_hexDigits (count := 1) (hctl.trans (by decide)),
    takeHex_hexDigits (count := 8) arg.isLt, takeHex_hexDigits (toNat_lt_lengthDigits len),
    takeHex_hexDigits (count := 2) d0.isLt, takeHex_hexDigits (count := 2) d1.isLt,
    takeHex_hexDigits (count := 2) d2.isLt, takeHex_hexDigits (count := 2) d3.isLt, hlast]
  rw [if_neg (not_not.mpr rfl), if_neg (by omega), if_neg (not_le.mpr len.isLt)]
  have hbit : (ctl.toNat == 1) = ctl := by cases ctl <;> rfl
  simp only [ofNat_toNat_self, hbit]
  rfl

/-- Settles O58: every field has the digits that its width takes. -/
theorem serialisedRoundTrip : Obligations.SerialisedRoundTrip := parseSerial_serialise

end Sys2Proof.Machine
end

section
/-! The laws of 41_length_validator.md and 42_fixed_width.md over whole families: a saturated length, and the round
trips of the fixed-width layouts. -/

namespace Sys2Proof.Machine

theorem presentLen_of_lt {lenW len : Nat} (h : len < 2 ^ lenW) : presentLen lenW len = len := by
  unfold presentLen
  omega

/-- A length above the field's largest is presented as that. -/
theorem presentLen_of_ge {lenW len : Nat} (h : 2 ^ lenW ≤ len) : presentLen lenW len = 2 ^ lenW - 1 := by
  unfold presentLen
  omega

theorem frameLen_le_five (l : Layout) : frameLen l ≤ 5 := by cases l <;> decide

/-- With `LEN_W >= 3` the largest presented length is above every layout's, so that saturation keeps the
verdict (R79). -/
theorem lencheck_presentLen {lenW : Nat} (h : 3 ≤ lenW) (len : Nat) (l : Layout) :
    lencheck (presentLen lenW len) (frameLen l) = lencheck len (frameLen l) := by
  rcases lt_or_ge len (2 ^ lenW) with hlt | hge
  · rw [presentLen_of_lt hlt]
  · have hfield : 2 ^ 3 ≤ 2 ^ lenW := Nat.pow_le_pow_right (by decide) h
    have hframe := frameLen_le_five l
    rw [presentLen_of_ge hge, lencheck_ne (by omega), lencheck_ne (by omega)]

/-- Settles O60: for the largest length CHKLEN tells the presented length and the true one apart. -/
theorem saturatedLengthKeepsVerdicts : Obligations.SaturatedLengthKeepsVerdicts := by
  refine ⟨fun lenW len => ⟨presentLen_lt lenW len, presentLen_of_lt⟩, fun _ len l h => lencheck_presentLen h len l,
    fun lenW => ?_⟩
  have hpos := Nat.two_pow_pos lenW
  rw [presentLen_of_ge le_rfl, lencheck_self, lencheck_ne (by omega)]
  exact nofun

/-- `u32` of an integer is its residue modulo 2^32 (R12). -/
theorem u32_eq_ofNat (i : Int) : u32 i = BitVec.ofNat 32 (i % 2 ^ 32).toNat := by
  apply BitVec.eq_of_toNat_eq
  rw [u32, BitVec.toNat_ofInt, BitVec.toNat_ofNat]
  omega

/-- Unpacking the frame that a pack left gives the value of its lanes. -/
theorem exec_unpackInstr_withFrame (l : Layout) (d : Lanes) (s : State) :
    exec (unpackInstr l (BitVec.ofNat 3 (frameLen l)).toNat d) (s.withFrame (BitVec.ofNat 3 (frameLen l)) d) =
      .next (s.withValue (unpackValue l d).1 (unpackValue l d).2) := by
  rw [toNat_ofNat_frameLen, exec_unpackInstr_frameLen]
  rfl

/-- The value read from a frame of PACK.BOOL. -/
theorem unpackValue_packBool (b : Bool) :
    unpackValue .boolean (lanesOfFrame (packBool b)) = (if b then 1 else 0, false) := by
  revert b; decide

/-- The value read from a frame of PACK.B3U: the low three bits, and the control bit. -/
theorem unpackValue_packB3u (control : Bool) (value : Word) :
    unpackValue .bool3 (lanesOfFrame (packB3u control value)) = (value &&& 7, control) := by
  have hbyte : ∀ (c : Bool) (v : BitVec 3), (0#4 ++ BitVec.ofBool c ++ v : Byte).extractLsb' 0 3 = v ∧
      (0#4 ++ BitVec.ofBool c ++ v : Byte).getLsbD 3 = c := by decide
  obtain ⟨hvalue, hcontrol⟩ := hbyte control (value.extractLsb' 0 3)
  have hmask : (value.extractLsb' 0 3).setWidth 32 = value &&& 7 := by
    apply BitVec.eq_of_toNat_eq
    have hmod : value.toNat &&& 7 = value.toNat % 2 ^ 3 := Nat.and_two_pow_sub_one_eq_mod value.toNat 3
    rw [BitVec.toNat_setWidth, toNat_extractLsb'_eq, BitVec.toNat_and]
    change _ = value.toNat &&& 7
    omega
  rw [packB3u_fields]
  exact Prod.ext (Eq.trans (congrArg (zext32 3) hvalue) hmask) hcontrol

/-- The word read from a frame of PACK.U32. -/
theorem wordOfLanes_packU32 (w : Word) : wordOfLanes (lanesOfFrame (packU32 w)) = w := wordOfLanes_wordBytes w 0

/-- The signed and the unsigned 32-bit unpack read the same value (R98). -/
theorem exec_unpackU32_eq_unpackS32 (n : Nat) (d : Lanes) (s : State) :
    exec (.unpackU32 n d) s = exec (.unpackS32 n d) s :=
  (exec_unpackInstr .unsigned32 n d s).trans (exec_unpackInstr .signed32 n d s).symm

/-- The signed and the unsigned 32-bit pack of one `arg` write the same frame (R98). -/
theorem exec_packU32_eq_packS32 {lenW : Nat} {r : Request lenW} (h : r.op = 0x6) (s : State) :
    exec (decode r) s = exec (decode { r with op := 0x8 }) s := by
  have hsigned : decode { r with op := 0x8 } = .packS32 (s32 r.arg) := decode_of_packOp .signed32 rfl
  have hunsigned : decode r = .packU32 r.arg := decode_of_packOp .unsigned32 h
  rw [hsigned, hunsigned, execPackS32_eq, u32_s32]

/-- Settles O34: each unpack reads from its pack's lanes the value that was packed. -/
theorem fixedWidthLaws : Obligations.FixedWidthLaws := by
  refine ⟨fun i s => u32_eq_ofNat i ▸ execPackS32_eq i s, fun _ r _ s h hr => hr ▸ exec_packU32_eq_packS32 h s,
    exec_unpackU32_eq_unpackS32, fun s => ⟨fun b => ?bool, fun control value => ?b3u, fun v => ?u8, fun w => ?u32,
      fun i hlow hup => ?s32⟩⟩
  case bool =>
    have hround := exec_unpackInstr_withFrame .boolean (lanesOfFrame (packBool b)) s
    rw [unpackValue_packBool] at hround
    exact ⟨_, execPackBool_eq b s, hround⟩
  case b3u =>
    have hround := exec_unpackInstr_withFrame .bool3 (lanesOfFrame (packB3u control value)) s
    rw [unpackValue_packB3u] at hround
    exact ⟨_, execPackB3u_eq control value s, hround⟩
  case u8 => exact ⟨_, execPackU8_eq v s, exec_unpackInstr_withFrame .unsigned8 ⟨0, v, 0, 0, 0⟩ s⟩
  case u32 =>
    have hround := exec_unpackInstr_withFrame .unsigned32 (lanesOfFrame (packU32 w)) s
    rw [unpackValue, wordOfLanes_packU32] at hround
    exact ⟨_, execPackU32_eq w s, hround⟩
  case s32 =>
    have hround := exec_unpackInstr_withFrame .signed32 (lanesOfFrame (packU32 (u32 i))) s
    rw [unpackValue, wordOfLanes_packU32] at hround
    have hvalue : s32 (wordOfLanes (lanesOfFrame (packU32 (u32 i)))) = i := by
      rw [wordOfLanes_packU32, s32_u32 hlow hup]
    exact ⟨_, execPackU32_eq (u32 i) s, (unpackS32_eq 5 _).trans (congrArg Except.ok hvalue), hround⟩

end Sys2Proof.Machine
end

section
/-! SUPPORT. The binary32 format: a word by its last place and its significand, and its sign (R9). -/

namespace Sys2Proof.Machine

/-! ### Bits 30:0 as a place and a significand -/

theorem lastPlace_ge (w : Word) : -149 ≤ lastPlace w := by
  unfold lastPlace
  omega

theorem significand_lt (w : Word) : significand w < 2 ^ 24 := by
  have hfrac : fracField w < 2 ^ 23 := BitVec.isLt _
  unfold significand
  split <;> omega

/-- Above the subnormals the significand has its implicit bit. -/
theorem le_significand {w : Word} (h : -149 < lastPlace w) : 2 ^ 23 ≤ significand w := by
  unfold lastPlace at h
  unfold significand
  rw [if_neg (by omega)]
  omega

/-- A finite word is one below the bits of infinity. -/
theorem isFinite_iff (w : Word) : isFinite w = true ↔ w.toNat % 2 ^ 31 < 0x7F800000 := by
  have he := expField_eq w
  simp only [isFinite, bne_iff_ne, ne_eq]
  omega

/-- Bits 30:0 of a word are its last place, counted from that of the subnormals, and its significand. -/
theorem bits_eq (w : Word) : w.toNat % 2 ^ 31 = (lastPlace w + 149).toNat * 2 ^ 23 + significand w := by
  have he := expField_eq w
  have hf := fracField_eq w
  unfold lastPlace significand
  split <;> omega

/-- The other way round: bits made of a place and at most 24 bits of significand are a word of that place and
significand, or, where the significand carries, of half the significand at the next place. -/
theorem fields_of_bits {w : Word} {p : Int} {k : Nat} (hp : -149 ≤ p) (hk : k ≤ 2 ^ 24)
    (hnormal : -149 < p → 2 ^ 23 ≤ k) (h : w.toNat % 2 ^ 31 = (p + 149).toNat * 2 ^ 23 + k) :
    (lastPlace w = p ∧ significand w = k) ∨ (lastPlace w = p + 1 ∧ significand w = 2 ^ 23 ∧ k = 2 ^ 24) := by
  have he := expField_eq w
  have hf := fracField_eq w
  unfold lastPlace significand
  rcases hk.lt_or_eq with hlt | rfl
  · left
    split <;> omega
  · right
    split <;> omega

/-- The value of bits made of a place and a significand; the carry raises the place. -/
theorem magnitude32_of_bits {w : Word} {p : Int} {k : Nat} (hp : -149 ≤ p) (hk : k ≤ 2 ^ 24)
    (hnormal : -149 < p → 2 ^ 23 ≤ k) (h : w.toNat % 2 ^ 31 = (p + 149).toNat * 2 ^ 23 + k) :
    magnitude32 w = k * 2 ^ p ∧ p ≤ lastPlace w ∧ fracField w % 2 = k % 2 := by
  have hf := fracField_eq w
  refine ⟨?_, ?_, by omega⟩
  · obtain ⟨hplace, hsig⟩ | ⟨hplace, hsig, rfl⟩ := fields_of_bits hp hk hnormal h
    · rw [magnitude32, hplace, hsig]
    · rw [magnitude32, hplace, hsig, zpow_add₀ (by norm_num), zpow_one]
      push_cast
      ring
  · obtain ⟨hplace, -⟩ | ⟨hplace, -⟩ := fields_of_bits hp hk hnormal h <;> omega

/-- Words with the same bits 30:0 have the same magnitude. -/
theorem magnitude32_congr {w w' : Word} (h : w.toNat % 2 ^ 31 = w'.toNat % 2 ^ 31) : magnitude32 w = magnitude32 w' :=
  le_antisymm (magnitude32_mono h.le) (magnitude32_mono h.ge)

/-- No word lies between two whose bits 30:0 are consecutive. -/
theorem magnitude32_le_of_gap {w c c' : Word} (hnext : c'.toNat % 2 ^ 31 = c.toNat % 2 ^ 31 + 1)
    (h : magnitude32 c < magnitude32 w) : magnitude32 c' ≤ magnitude32 w := by
  have hlt : c.toNat % 2 ^ 31 < w.toNat % 2 ^ 31 := lt_of_not_ge fun hge => absurd h (magnitude32_mono hge).not_gt
  exact magnitude32_mono (by omega)

/-! ### The sign bit -/

theorem val32_eq (w : Word) : val32 w = if w.getLsbD 31 then -magnitude32 w else magnitude32 w := by
  rw [val32, magnitude32]
  split <;> ring

theorem abs_val32 (w : Word) : |val32 w| = magnitude32 w := by
  rw [val32_eq]
  split
  · rw [abs_neg, abs_of_nonneg (magnitude32_nonneg w)]
  · rw [abs_of_nonneg (magnitude32_nonneg w)]

/-- A positive value is that of a word without the sign bit. -/
theorem val32_of_pos {w : Word} (h : 0 < val32 w) : w.getLsbD 31 = false ∧ val32 w = magnitude32 w := by
  have hnonneg := magnitude32_nonneg w
  rw [val32_eq] at h ⊢
  split
  case isTrue hs => rw [if_pos hs] at h; linarith
  case isFalse hs => exact ⟨by simpa using hs, rfl⟩

theorem signBit_xor_sign (w : Word) : (w ^^^ 0x80000000).getLsbD 31 = !w.getLsbD 31 :=
  BitVec.getLsbD_xor.trans (Bool.xor_true _)

theorem bits_xor_sign (w : Word) : (w ^^^ 0x80000000).toNat % 2 ^ 31 = w.toNat % 2 ^ 31 := by
  rw [BitVec.toNat_xor, Nat.xor_mod_two_pow]
  exact Nat.xor_zero _

/-- A word is its sign bit and its bits 30:0. -/
theorem word_ext {w w' : Word} (hsign : w.getLsbD 31 = w'.getLsbD 31) (hbits : w.toNat % 2 ^ 31 = w'.toNat % 2 ^ 31) :
    w = w' := by
  apply BitVec.eq_of_toNat_eq
  have h := signBit_iff w
  have h' := signBit_iff w'
  rw [hsign, h'] at h
  have hlt := w.isLt
  have hlt' := w'.isLt
  omega

theorem val32_xor_sign (w : Word) : val32 (w ^^^ 0x80000000) = -val32 w := by
  rw [val32_eq, val32_eq, signBit_xor_sign, magnitude32_congr (bits_xor_sign w)]
  cases w.getLsbD 31 <;> simp

theorem isFinite_xor_sign (w : Word) : isFinite (w ^^^ 0x80000000) = isFinite w := by
  rw [Bool.eq_iff_iff, isFinite_iff, isFinite_iff, bits_xor_sign]

theorem fracField_xor_sign (w : Word) : fracField (w ^^^ 0x80000000) = fracField w := by
  have hbits := bits_xor_sign w
  rw [fracField_eq, fracField_eq]
  omega

theorem xor_sign_xor_sign (w : Word) : w ^^^ 0x80000000 ^^^ 0x80000000 = w := by
  rw [BitVec.xor_assoc, BitVec.xor_self, BitVec.xor_zero]

end Sys2Proof.Machine
end

section
/-! SUPPORT. Rounding half to even takes a nearest integer, and `rne32` a nearest word (R13). -/

namespace Sys2Proof.Machine

/-! ### Rounding to an integer -/

/-- At a tie the rounding is even. -/
theorem roundHalfEven_even_of_tie {x : ℚ} (hx : 0 ≤ x) (h : |x - roundHalfEven x| = 1 / 2) :
    roundHalfEven x % 2 = 0 := by
  have hlow := Nat.floor_le hx
  have hup := Nat.lt_floor_add_one x
  obtain ⟨hr, heq⟩ | ⟨hr, heq⟩ | ⟨-, heq⟩ := roundHalfEven_cases x
  · rw [heq, abs_of_nonneg (by linarith)] at h
    linarith
  · rw [heq, abs_of_nonpos (by push_cast; linarith)] at h
    push_cast at h
    linarith
  · omega

/-- No integer is nearer, and one as near is the rounding itself or leaves it even. -/
theorem roundHalfEven_nearest {x : ℚ} (hx : 0 ≤ x) (j : Int) : |x - roundHalfEven x| ≤ |x - j| ∧
    (|x - roundHalfEven x| = |x - j| → (j : ℚ) = roundHalfEven x ∨ roundHalfEven x % 2 = 0) := by
  have herr := roundHalfEven_error hx
  by_cases hj : j = roundHalfEven x
  · exact ⟨by rw [hj, Int.cast_natCast], fun _ => .inl (by rw [hj, Int.cast_natCast])⟩
  · have hgap : (1 : ℚ) ≤ |(roundHalfEven x : ℚ) - j| := by
      exact_mod_cast Int.one_le_abs (sub_ne_zero.mpr (Ne.symm hj))
    have htriangle := abs_sub_le (roundHalfEven x : ℚ) x j
    rw [abs_sub_comm _ x] at htriangle
    refine ⟨by linarith, fun heq => .inr (roundHalfEven_even_of_tie hx ?_)⟩
    linarith

/-- The same against a number between the integers, if it lies below an integer that `x` does not. -/
theorem roundHalfEven_nearest_of_below {x y : ℚ} {n : Nat} (hn : (n : ℚ) ≤ x) (hy : y < n) :
    |x - roundHalfEven x| < |x - y| := by
  have hnearest := (roundHalfEven_nearest ((Nat.cast_nonneg n).trans hn) n).1
  rw [Int.cast_natCast, abs_of_nonneg (sub_nonneg.mpr hn)] at hnearest
  calc |x - roundHalfEven x| ≤ x - n := hnearest
    _ < x - y := by linarith
    _ ≤ |x - y| := le_abs_self _

/-! ### Rounding to a word -/

/-- The last place of the words around `q` is that of its leading bit (R13). -/
theorem placeOf_eq {q : ℚ} {p : Int} (hq : 0 < q) (hp : -149 ≤ p) (hlt : q < 2 ^ 24 * 2 ^ p)
    (hge : -149 < p → 2 ^ 23 * 2 ^ p ≤ q) : placeOf q = p := by
  have hup : Int.log 2 q < p + 24 := by
    rw [← Int.lt_zpow_iff_log_lt (by decide) hq, Nat.cast_ofNat, zpow_add₀ (by norm_num)]
    calc q < 2 ^ 24 * 2 ^ p := hlt
      _ = _ := mul_comm _ _
  have hlow : -149 < p → p + 23 ≤ Int.log 2 q := fun h => by
    rw [← Int.zpow_le_iff_le_log (by decide) hq, Nat.cast_ofNat, zpow_add₀ (by norm_num)]
    calc (2 : ℚ) ^ p * 2 ^ (23 : Int) = 2 ^ 23 * 2 ^ p := mul_comm _ _
      _ ≤ q := hge h
  unfold placeOf
  omega

/-- Above the subnormal places, the place is that of the leading bit. -/
theorem le_of_placeOf {q : ℚ} (hq : 0 < q) (h : -149 < placeOf q) : 2 ^ 23 * 2 ^ placeOf q ≤ q := by
  have hplace : placeOf q + 23 = Int.log 2 q := by
    unfold placeOf at h ⊢
    omega
  calc (2 : ℚ) ^ 23 * 2 ^ placeOf q = 2 ^ (placeOf q + 23) := by rw [zpow_add₀ (by norm_num), mul_comm]; norm_num
    _ = 2 ^ Int.log 2 q := by rw [hplace]
    _ ≤ q := by exact_mod_cast Int.zpow_log_le_self (by decide : 1 < 2) hq

theorem signBit_rne32_of_pos {q : ℚ} (h : 0 < q) : (rne32 q).getLsbD 31 = false := by
  have hle := roundMagnitude_le q
  rw [← Bool.not_eq_true, signBit_iff, toNat_rne32_of_pos h]
  omega

/-- Rounding keeps the sign apart (R13): only the sign bit differs. -/
theorem rne32_neg {q : ℚ} (hq : q ≠ 0) : rne32 (-q) = rne32 q ^^^ 0x80000000 := by
  wlog hpos : 0 < q generalizing q
  · have hneg : 0 < -q := neg_pos.mpr (lt_of_le_of_ne (not_lt.mp hpos) hq)
    rw [← xor_sign_xor_sign (rne32 (-q)), ← this hneg.ne' hneg, neg_neg]
  · have hle := roundMagnitude_le q
    have htoNat := toNat_rne32_of_neg (neg_lt_zero.mpr hpos)
    rw [neg_neg] at htoNat
    apply word_ext
    · rw [signBit_xor_sign, signBit_rne32_of_pos hpos, Bool.not_false, signBit_iff]
      omega
    · rw [bits_xor_sign, htoNat, toNat_rne32_of_pos hpos]
      omega

/-- A finite result for `q > 0`: the rounded significand at the place of `q`. -/
theorem rne32_of_pos_isFinite {q : ℚ} (hq : 0 < q) (hfin : isFinite (rne32 q) = true) :
    val32 (rne32 q) = roundHalfEven (q / 2 ^ placeOf q) * 2 ^ placeOf q ∧ placeOf q ≤ lastPlace (rne32 q) ∧
      fracField (rne32 q) % 2 = roundHalfEven (q / 2 ^ placeOf q) % 2 := by
  have hfin := (isFinite_iff _).mp hfin
  have htoNat := toNat_rne32_of_pos hq
  have hle := roundMagnitude_le q
  rw [val32_of_lt (by omega)]
  refine magnitude32_of_bits (placeOf_ge q) (roundHalfEven_place_le q) (le_roundHalfEven_place hq) ?_
  unfold roundMagnitude at htoNat hle
  omega

/-- A place is a whole power of two of any lower one. -/
theorem exists_two_zpow_eq {p p' : Int} (h : p' ≤ p) : ∃ n : Nat, (2 : ℚ) ^ p = 2 ^ n * 2 ^ p' := by
  obtain ⟨n, hn⟩ := Int.eq_ofNat_of_zero_le (sub_nonneg.mpr h)
  refine ⟨n, ?_⟩
  rw [← zpow_natCast, ← zpow_add₀ (by norm_num), sub_eq_iff_eq_add.mp hn]

/-- Every finite value is a multiple of a place, or too small to have its leading bit there. -/
theorem val32_multiple_or_lt (w : Word) (p : Int) :
    (∃ j : Int, val32 w = j * 2 ^ p) ∨ (lastPlace w < p ∧ |val32 w| < 2 ^ 23 * 2 ^ p) := by
  rcases le_or_gt p (lastPlace w) with hle | hlt
  · obtain ⟨n, hplace⟩ := exists_two_zpow_eq hle
    refine .inl ⟨(if w.getLsbD 31 then -1 else 1) * significand w * 2 ^ n, ?_⟩
    rw [val32, hplace]
    push_cast
    ring
  · have hsig : (significand w : ℚ) < 2 ^ 24 := by exact_mod_cast significand_lt w
    refine .inr ⟨hlt, ?_⟩
    rw [abs_val32]
    calc magnitude32 w < 2 ^ 24 * 2 ^ lastPlace w := by unfold magnitude32; gcongr
      _ = 2 ^ 23 * 2 ^ (lastPlace w + 1) := by rw [zpow_add₀ (by norm_num), zpow_one]; ring
      _ ≤ 2 ^ 23 * 2 ^ p := by gcongr <;> [norm_num; omega]

/-- No word is nearer to `q > 0` than its rounding, and one of another value that is as near leaves the fraction
even. -/
theorem rne32_nearest_of_pos {q : ℚ} (hq : 0 < q) (hfin : isFinite (rne32 q) = true) (w : Word) :
    |q - val32 (rne32 q)| ≤ |q - val32 w| ∧
    (|q - val32 (rne32 q)| = |q - val32 w| → val32 w ≠ val32 (rne32 q) → fracField (rne32 q) % 2 = 0) := by
  obtain ⟨hval, -, heven⟩ := rne32_of_pos_isFinite hq hfin
  rw [hval, heven]
  have hplace : (0 : ℚ) < 2 ^ placeOf q := by positivity
  have hx : 0 ≤ q / 2 ^ placeOf q := by positivity
  have hunits : ∀ y : ℚ, |q - y * 2 ^ placeOf q| = |q / 2 ^ placeOf q - y| * 2 ^ placeOf q := fun y => by
    rw [← abs_of_pos hplace, ← abs_mul, abs_of_pos hplace, sub_mul, div_mul_cancel₀ _ hplace.ne']
  rw [hunits]
  obtain ⟨j, hj⟩ | ⟨hlt, hsmall⟩ := val32_multiple_or_lt w (placeOf q)
  · obtain ⟨hle, htie⟩ := roundHalfEven_nearest hx j
    rw [hj, hunits]
    refine ⟨by gcongr, fun heq hne => (htie (mul_right_cancel₀ hplace.ne' heq)).resolve_left fun h => hne ?_⟩
    rw [h]
  · have hbelow : ((2 ^ 23 : Nat) : ℚ) ≤ q / 2 ^ placeOf q := by
      rw [le_div_iff₀ hplace]
      exact_mod_cast le_of_placeOf hq ((lastPlace_ge w).trans_lt hlt)
    have hw : val32 w / 2 ^ placeOf q < ((2 ^ 23 : Nat) : ℚ) := by
      rw [div_lt_iff₀ hplace]
      exact_mod_cast (le_abs_self _).trans_lt hsmall
    have hcloser := roundHalfEven_nearest_of_below hbelow hw
    rw [← mul_lt_mul_iff_left₀ hplace, ← hunits (val32 w / _), div_mul_cancel₀ _ hplace.ne'] at hcloser
    exact ⟨hcloser.le, fun heq => absurd heq hcloser.ne⟩

/-- The same for every `q`: with the signs of `q` and of the word changed, nothing else does. -/
theorem rne32_nearest (q : ℚ) (hfin : isFinite (rne32 q) = true) (w : Word) :
    |q - val32 (rne32 q)| ≤ |q - val32 w| ∧
    (|q - val32 (rne32 q)| = |q - val32 w| → val32 w ≠ val32 (rne32 q) → fracField (rne32 q) % 2 = 0) := by
  rcases lt_trichotomy q 0 with hq | rfl | hq
  · have hword : rne32 q = rne32 (-q) ^^^ 0x80000000 := by rw [← rne32_neg (neg_ne_zero.mpr hq.ne), neg_neg]
    rw [hword, isFinite_xor_sign] at hfin
    have hnearest := rne32_nearest_of_pos (neg_pos.mpr hq) hfin (w ^^^ 0x80000000)
    have hflip : ∀ y : ℚ, |-q - -y| = |q - y| := fun y => by rw [← abs_neg]; congr 1; ring
    have hback : val32 (rne32 (-q)) = -val32 (rne32 q) := by rw [hword, val32_xor_sign, neg_neg]
    rw [hback, val32_xor_sign, hflip, hflip, Ne, neg_inj] at hnearest
    rwa [hword, fracField_xor_sign, ← hword]
  · have hzero : val32 (rne32 0) = 0 := by decide +kernel
    rw [hzero, sub_zero, abs_zero]
    refine ⟨abs_nonneg _, fun heq hne => absurd ?_ hne⟩
    rw [eq_comm, abs_eq_zero, zero_sub, neg_eq_zero] at heq
    exact heq
  · exact rne32_nearest_of_pos hq hfin w

/-- A number below the middle between the largest finite value and 2^128 stays finite. -/
theorem roundMagnitude_lt {q : ℚ} (hq : 0 < q) (h : q < 2 ^ 128 - 2 ^ 103) : roundMagnitude q < 0x7F800000 := by
  have hlog : Int.log 2 q < 128 := by
    rw [← Int.lt_zpow_iff_log_lt (by decide) hq]
    have hbound : (2 ^ 128 - 2 ^ 103 : ℚ) < ((2 : Nat) : ℚ) ^ (128 : Int) := by norm_num
    exact h.trans hbound
  have hge := placeOf_ge q
  have hsig := roundHalfEven_place_le q
  have hplace : placeOf q ≤ 104 := by unfold placeOf; omega
  refine (min_le_left _ _).trans_lt ?_
  rcases hplace.lt_or_eq with hlt | heq
  · omega
  · have hscaled : q / 2 ^ placeOf q < 2 ^ 24 - 1 / 2 := by
      rw [heq, div_lt_iff₀ (by positivity)]
      norm_num at h ⊢
      exact h
    have herr := (abs_le.mp (roundHalfEven_error (q := q / 2 ^ placeOf q) (by positivity))).1
    have hsig : roundHalfEven (q / 2 ^ placeOf q) < 2 ^ 24 := by
      have hcast : (roundHalfEven (q / 2 ^ placeOf q) : ℚ) < 2 ^ 24 := by linarith
      exact_mod_cast hcast
    omega

theorem isFinite_rne32 {q : ℚ} (h : |q| < 2 ^ 128 - 2 ^ 103) : isFinite (rne32 q) = true := by
  rcases eq_or_ne q 0 with rfl | hne
  · decide +kernel
  wlog hpos : 0 < q generalizing q
  · have hneg : 0 < -q := neg_pos.mpr (lt_of_le_of_ne (not_lt.mp hpos) hne)
    rw [← isFinite_xor_sign, ← rne32_neg hne]
    exact this (by rwa [abs_neg]) hneg.ne' hneg
  · have hlt := roundMagnitude_lt hpos ((le_abs_self q).trans_lt h)
    rw [isFinite_iff, toNat_rne32_of_pos hpos]
    omega

/-- A finite positive value rounds to its own word. -/
theorem rne32_val32_of_pos {w : Word} (hfin : isFinite w = true) (h : 0 < val32 w) : rne32 (val32 w) = w := by
  obtain ⟨hsign, hval⟩ := val32_of_pos h
  have hsig : (significand w : ℚ) < 2 ^ 24 := by exact_mod_cast significand_lt w
  have hplace : placeOf (val32 w) = lastPlace w := by
    refine placeOf_eq h (lastPlace_ge w) ?_ fun hnormal => ?_
    · rw [hval, magnitude32]
      gcongr
    · have hle : (2 ^ 23 : ℚ) ≤ significand w := by exact_mod_cast le_significand hnormal
      rw [hval, magnitude32]
      gcongr
  have hunits : val32 w / 2 ^ lastPlace w = significand w := by
    rw [hval, magnitude32, mul_div_cancel_right₀ _ (by positivity)]
  have hround : roundMagnitude (val32 w) = min (w.toNat % 2 ^ 31) 0x7F800000 := by
    rw [roundMagnitude, hplace, hunits, roundHalfEven_natCast, bits_eq]
  have hbits := (isFinite_iff w).mp hfin
  apply word_ext
  · rw [signBit_rne32_of_pos h, hsign]
  · rw [toNat_rne32_of_pos h, hround]
    omega

/-- A finite value rounds to its own word, except that both zeros give +0.0. -/
theorem rne32_val32 {w : Word} (hfin : isFinite w = true) (hne : w ≠ 0x80000000) : rne32 (val32 w) = w := by
  rcases lt_trichotomy (val32 w) 0 with hlt | heq | hgt
  · have hpos : 0 < val32 (w ^^^ 0x80000000) := by rwa [val32_xor_sign, neg_pos]
    have hflip := rne32_val32_of_pos ((isFinite_xor_sign w).trans hfin) hpos
    rw [val32_xor_sign, rne32_neg hlt.ne] at hflip
    rw [← xor_sign_xor_sign (rne32 _), hflip, xor_sign_xor_sign]
  · have hbits : w.toNat % 2 ^ 31 = 0 := by
      have hmag : magnitude32 w = 0 := by rw [← abs_val32, heq, abs_zero]
      have hleast : magnitude32 0x00000000 < magnitude32 0x00000001 := by decide +kernel
      have hzero : magnitude32 0x00000000 = 0 := by decide +kernel
      by_contra hbits
      have hmono : magnitude32 0x00000001 ≤ magnitude32 w := magnitude32_mono (by
        change 1 ≤ w.toNat % 2 ^ 31
        omega)
      linarith
    rw [heq, rne32_zero]
    apply word_ext
    · by_contra hsign
      refine hne (word_ext ?_ hbits)
      simpa using Ne.symm hsign
    · exact hbits.symm
  · exact rne32_val32_of_pos hfin hgt

/-- Settles O21: the nearest word by the nearest multiple of the last place around `q`. -/
theorem rneNearestEven : Obligations.RneNearestEven :=
  ⟨fun q w _ hfin => rne32_nearest q hfin w, rne32_zero, fun _ => rne32_val32, fun _ => isFinite_rne32⟩

end Sys2Proof.Machine
end

section
/-! SUPPORT. What truncation and the rounding to binary32 keep: how far they go, their order, and the numbers that they
leave as they are (R13). -/

namespace Sys2Proof.Machine

/-! ### Truncation -/

/-- Truncation by the sign of its operand: it goes less than 1 toward zero, and not beyond. -/
theorem trunc_cases (q : ℚ) : (0 ≤ q ∧ 0 ≤ (trunc q : ℚ) ∧ (trunc q : ℚ) ≤ q ∧ q < trunc q + 1) ∨
    (q < 0 ∧ (trunc q : ℚ) ≤ 0 ∧ q ≤ trunc q ∧ (trunc q : ℚ) < q + 1) := by
  rcases lt_or_ge q 0 with hq | hq
  · have hle : ⌈q⌉ ≤ 0 := Int.ceil_le.mpr (by exact_mod_cast hq.le)
    rw [trunc_of_neg hq]
    exact .inr ⟨hq, by exact_mod_cast hle, Int.le_ceil q, Int.ceil_lt_add_one q⟩
  · have hle : 0 ≤ ⌊q⌋ := Int.floor_nonneg.mpr hq
    rw [trunc_of_nonneg hq]
    exact .inl ⟨hq, by exact_mod_cast hle, Int.floor_le q, Int.lt_floor_add_one q⟩

theorem abs_trunc_le (q : ℚ) : |(trunc q : ℚ)| ≤ |q| := by
  obtain ⟨hq, ht, hle, -⟩ | ⟨hq, ht, hle, -⟩ := trunc_cases q
  · rwa [abs_of_nonneg ht, abs_of_nonneg hq]
  · rwa [abs_of_nonpos ht, abs_of_neg hq, neg_le_neg_iff]

theorem abs_sub_trunc_lt (q : ℚ) : |q - trunc q| < 1 := by
  rw [abs_lt]
  obtain ⟨-, -, hle, hlt⟩ | ⟨-, -, hle, hlt⟩ := trunc_cases q <;> constructor <;> linarith

theorem trunc_mul_self_nonneg (q : ℚ) : 0 ≤ (trunc q : ℚ) * q := by
  obtain ⟨hq, ht, -⟩ | ⟨hq, ht, -⟩ := trunc_cases q
  · exact mul_nonneg ht hq
  · exact mul_nonneg_of_nonpos_of_nonpos ht hq.le

/-- A truncation on the near side of a nonzero integer means that the number is. -/
theorem le_trunc_iff {a : Int} (ha : 0 < a) {q : ℚ} : a ≤ trunc q ↔ (a : ℚ) ≤ q := by
  refine ⟨fun h => ?_, le_trunc⟩
  have hcast : (a : ℚ) ≤ trunc q := by exact_mod_cast h
  have hpos : (0 : ℚ) < a := by exact_mod_cast ha
  obtain ⟨-, -, hle, -⟩ | ⟨-, ht, -⟩ := trunc_cases q <;> linarith

theorem trunc_le_iff {a : Int} (ha : a < 0) {q : ℚ} : trunc q ≤ a ↔ q ≤ a := by
  have hneg := le_trunc_iff (neg_pos.mpr ha) (q := -q)
  rwa [trunc_neg, neg_le_neg_iff, Int.cast_neg, neg_le_neg_iff] at hneg

/-- A number less than 1 away from zero truncates to zero. -/
theorem trunc_eq_zero {q : ℚ} (h : |q| < 1) : trunc q = 0 := by
  have hlt := (abs_trunc_le q).trans_lt h
  exact Int.abs_lt_one_iff.mp (by exact_mod_cast hlt)

theorem trunc_of_nonneg_eq_natFloor {q : ℚ} (h : 0 ≤ q) : trunc q = ⌊q⌋₊ := by
  rw [trunc_of_nonneg h, Int.natCast_floor_eq_floor h]

/-- Truncating before a division by a whole number changes nothing (R116). -/
theorem trunc_trunc_div_natCast (q : ℚ) (d : Nat) : trunc ((trunc q : ℚ) / d) = trunc (q / d) := by
  wlog h : 0 ≤ q generalizing q
  · have hneg := this (-q) (by linarith)
    rwa [trunc_neg, Int.cast_neg, neg_div, neg_div, trunc_neg, trunc_neg, neg_inj] at hneg
  · rw [trunc_of_nonneg_eq_natFloor h, Int.cast_natCast, trunc_of_nonneg_eq_natFloor (by positivity),
      trunc_of_nonneg_eq_natFloor (by positivity), Nat.floor_div_natCast, Nat.floor_div_natCast, Nat.floor_natCast]

/-! ### Rounding to binary32: sign, order, error -/

theorem fl32_zero : fl32 0 = 0 := by decide +kernel

theorem fl32_neg (q : ℚ) : fl32 (-q) = -fl32 q := by
  rcases eq_or_ne q 0 with rfl | hq
  · rw [neg_zero, fl32_zero, neg_zero]
  · rw [fl32, fl32, rne32_neg hq, val32_xor_sign]

theorem fl32_of_pos {q : ℚ} (h : 0 < q) : fl32 q = magnitude32 (rne32 q) := by
  rw [fl32, val32_eq, signBit_rne32_of_pos h, if_neg Bool.false_ne_true]

theorem fl32_nonneg {q : ℚ} (h : 0 ≤ q) : 0 ≤ fl32 q := by
  rcases h.eq_or_lt with rfl | h
  · exact fl32_zero.ge
  · rw [fl32_of_pos h]
    exact magnitude32_nonneg _

/-- A larger number never rounds to a smaller one. -/
theorem fl32_mono_of_pos {q q' : ℚ} (hq : 0 < q) (h : q ≤ q') : fl32 q ≤ fl32 q' := by
  have hround := roundMagnitude_mono hq h
  have hle := roundMagnitude_le q'
  rw [fl32_of_pos hq, fl32_of_pos (hq.trans_le h)]
  refine magnitude32_mono ?_
  rw [toNat_rne32_of_pos hq, toNat_rne32_of_pos (hq.trans_le h)]
  omega

theorem fl32_mono {q q' : ℚ} (h : q ≤ q') : fl32 q ≤ fl32 q' := by
  rcases lt_or_ge 0 q with hq | hq
  · exact fl32_mono_of_pos hq h
  · have hflip : 0 ≤ fl32 (-q) := fl32_nonneg (neg_nonneg.mpr hq)
    rw [fl32_neg] at hflip
    rcases lt_or_ge q' 0 with hq' | hq'
    · have hneg := fl32_mono_of_pos (neg_pos.mpr hq') (neg_le_neg h)
      rwa [fl32_neg, fl32_neg, neg_le_neg_iff] at hneg
    · linarith [fl32_nonneg hq']

theorem lastPlace_xor_sign (w : Word) : lastPlace (w ^^^ 0x80000000) = lastPlace w := by
  have hbits := bits_xor_sign w
  have he := expField_eq w
  have he' := expField_eq (w ^^^ 0x80000000)
  unfold lastPlace
  omega

/-- Rounding goes at most half a unit in the last place of its result. -/
theorem abs_sub_rne32_le {q : ℚ} (hfin : isFinite (rne32 q) = true) :
    |q - val32 (rne32 q)| ≤ ulp32 (rne32 q) / 2 := by
  rcases eq_or_ne q 0 with rfl | hne
  · decide +kernel
  wlog hpos : 0 < q generalizing q
  · have hneg : 0 < -q := neg_pos.mpr (lt_of_le_of_ne (not_lt.mp hpos) hne)
    have hflip := this (q := -q) (by rwa [rne32_neg hne, isFinite_xor_sign]) hneg.ne' hneg
    rwa [rne32_neg hne, val32_xor_sign, ulp32, lastPlace_xor_sign, ← neg_sub', abs_neg] at hflip
  · obtain ⟨hval, hplace, -⟩ := rne32_of_pos_isFinite hpos hfin
    have hunit : (0 : ℚ) < 2 ^ placeOf q := by positivity
    have herr := roundHalfEven_error (q := q / 2 ^ placeOf q) (by positivity)
    calc |q - val32 (rne32 q)|
        = |q / 2 ^ placeOf q - roundHalfEven (q / 2 ^ placeOf q)| * 2 ^ placeOf q := by
          rw [hval, ← abs_of_pos hunit, ← abs_mul, abs_of_pos hunit, sub_mul, div_mul_cancel₀ _ hunit.ne']
      _ ≤ 1 / 2 * 2 ^ placeOf q := by gcongr
      _ ≤ 1 / 2 * 2 ^ lastPlace (rne32 q) := by gcongr; norm_num
      _ = ulp32 (rne32 q) / 2 := by rw [ulp32]; ring

/-- A number of at most 24 bits at a place of the format rounds to itself. -/
theorem fl32_eq_self {q : ℚ} {n : Nat} {p : Int} (hn : n < 2 ^ 24) (hp : -149 ≤ p) (hq : |q| = n * 2 ^ p)
    (hfin : |q| < 2 ^ 128 - 2 ^ 103) : fl32 q = q := by
  rcases eq_or_ne q 0 with rfl | hne
  · exact fl32_zero
  wlog hpos : 0 < q generalizing q
  · have hneg : 0 < -q := neg_pos.mpr (lt_of_le_of_ne (not_lt.mp hpos) hne)
    have hflip := this (q := -q) (by rwa [abs_neg]) (by rwa [abs_neg]) hneg.ne' hneg
    rwa [fl32_neg, neg_inj] at hflip
  · obtain ⟨hval, -⟩ := rne32_of_pos_isFinite hpos (isFinite_rne32 hfin)
    rw [abs_of_pos hpos] at hq
    have hlog : Int.log 2 q < 24 + p := by
      rw [← Int.lt_zpow_iff_log_lt (by decide) hpos, Nat.cast_ofNat, zpow_add₀ (by norm_num), hq]
      gcongr
      exact_mod_cast hn
    have hplace : placeOf q ≤ p := by unfold placeOf; omega
    obtain ⟨j, hscale⟩ := exists_two_zpow_eq hplace
    have hunits : q / 2 ^ placeOf q = ((n * 2 ^ j : Nat) : ℚ) := by
      rw [div_eq_iff (by positivity)]
      calc q = n * 2 ^ p := hq
        _ = ((n * 2 ^ j : Nat) : ℚ) * 2 ^ placeOf q := by rw [hscale]; push_cast; ring
    rw [fl32, hval, hunits, roundHalfEven_natCast, ← hunits, div_mul_cancel₀ _ (by positivity)]

/-- A value of the format times a power of two keeps its bits, if it stays in range: the scaling is exact (R122). -/
theorem fl32_val32_mul_two_pow {w : Word} {e : Nat} (h : |val32 w * 2 ^ e| < 2 ^ 128 - 2 ^ 103) :
    fl32 (val32 w * 2 ^ e) = val32 w * 2 ^ e := by
  have hplace := lastPlace_ge w
  refine fl32_eq_self (significand_lt w) (p := lastPlace w + e) (by omega) ?_ h
  rw [abs_mul, abs_val32, magnitude32, abs_of_pos (by positivity), zpow_add₀ (by norm_num), zpow_natCast, mul_assoc]

/-- From 0.0078125 on in magnitude nothing rounds to +0.0. -/
theorem rne32_ne_zero {q : ℚ} (h : 1 / 128 ≤ |q|) : rne32 q ≠ 0 := by
  intro hzero
  have hfixed : fl32 (1 / 128) = 1 / 128 := by decide +kernel
  have hround : fl32 q = 0 := by rw [fl32, hzero]; decide +kernel
  have hmono := fl32_mono h
  rcases abs_choice q with habs | habs <;> rw [habs] at hmono
  · linarith
  · rw [fl32_neg] at hmono
    linarith

/-! ### The primitives by the format's fields -/

/-- The value of a subnormal or a zero (R9). -/
theorem val32_of_expField_eq_zero {w : Word} (h : expField w = 0) :
    val32 w = (if w.getLsbD 31 then -1 else 1) * ((fracField w : ℚ) / 2 ^ 149) := by
  have hplace : lastPlace w = -149 := by unfold lastPlace; omega
  rw [val32, significand, if_pos h, hplace, zpow_neg, mul_assoc, div_eq_mul_inv]
  norm_num

/-- The value of a normal word, with the implicit 1 (R9). -/
theorem val32_of_expField_pos {w : Word} (h : 0 < expField w) :
    val32 w = (if w.getLsbD 31 then -1 else 1) * (1 + (fracField w : ℚ) / 2 ^ 23) *
      (2 ^ expField w / 2 ^ 127) := by
  have hplace : lastPlace w = expField w - 150 := by unfold lastPlace; omega
  rw [val32, significand, if_neg h.ne', hplace, zpow_sub₀ (by norm_num), zpow_natCast]
  push_cast
  ring

/-- Settles O20: truncation by the sign of its operand, and the value of a word by its exponent field. -/
theorem numericPrimitives : Obligations.NumericPrimitives :=
  ⟨fun q => ⟨abs_trunc_le q, abs_sub_trunc_lt q, trunc_mul_self_nonneg q⟩, tdiv2_eq_trunc,
    fun _ => val32_of_expField_eq_zero, fun _ h _ => val32_of_expField_pos h, by decide +kernel⟩

end Sys2Proof.Machine
end

section
/-! SUPPORT. The Float16 codec in both values of `F16_ARITH`: the mantissa and exponent of a real, the frame of them,
and the bounds of the clamp as binary32 words. -/

namespace Sys2Proof.Machine

/-! ### The clamp -/

theorem clampUpper_binary32 : clampUpper .binary32 = 670760.9375 := by decide +kernel

theorem clampLower_binary32 : clampLower .binary32 = -671088.625 := by decide +kernel

theorem clampLower_le_clampUpper (mode : F16Arith) : clampLower mode ≤ clampUpper mode := by
  cases mode with
  | exact => norm_num [clampLower, clampUpper, lowerBound, upperBound]
  | binary32 => norm_num [clampLower_binary32, clampUpper_binary32]

theorem clampF_eq_max_min (mode : F16Arith) (x : ℚ) :
    clampF mode x = max (clampLower mode) (min (clampUpper mode) x) := by
  rcases lt_or_ge (clampUpper mode) x with hup | hup
  · rw [clampF_above hup, min_eq_left hup.le, max_eq_right (clampLower_le_clampUpper mode)]
  · rw [min_eq_right hup]
    rcases lt_or_ge x (clampLower mode) with hlow | hlow
    · rw [clampF_below hup hlow, max_eq_left hlow.le]
    · rw [clampF_inside hup hlow, max_eq_right hlow]

theorem clampF_mem (mode : F16Arith) (x : ℚ) : clampLower mode ≤ clampF mode x ∧ clampF mode x ≤ clampUpper mode := by
  rw [clampF_eq_max_min]
  exact ⟨le_max_left _ _, max_le (clampLower_le_clampUpper mode) (min_le_left _ _)⟩

/-! ### The provisional mantissa -/

theorem provisional_exact_eq (x : ℚ) : provisional .exact x = trunc (100 * clampF .exact x) := rfl

theorem provisional_binary32_eq (x : ℚ) : provisional .binary32 x = trunc (fl32 (100 * clampF .binary32 x)) := rfl

/-- The products at the bounds of the clamp under BINARY32 (R119). -/
theorem fl32_product_bounds :
    fl32 (100 * clampLower .binary32) = -67108864 ∧ fl32 (100 * clampUpper .binary32) = 67076092 := by decide +kernel

theorem product_binary32_mem (x : ℚ) :
    -67108864 ≤ fl32 (100 * clampF .binary32 x) ∧ fl32 (100 * clampF .binary32 x) ≤ 67076092 := by
  obtain ⟨hlow, hup⟩ := clampF_mem .binary32 x
  obtain ⟨hleast, hgreatest⟩ := fl32_product_bounds
  rw [← hleast, ← hgreatest]
  exact ⟨fl32_mono (by linarith), fl32_mono (by linarith)⟩

theorem provisional_binary32_mem (x : ℚ) :
    -67108864 ≤ provisional .binary32 x ∧ provisional .binary32 x ≤ 67076092 := by
  obtain ⟨hlow, hup⟩ := product_binary32_mem x
  exact ⟨le_trunc (by exact_mod_cast hlow), trunc_le (by exact_mod_cast hup)⟩

/-- In both modes the provisional mantissa is one that fifteen halvings bring into range (R115, R119). -/
theorem provisional_mem (mode : F16Arith) (x : ℚ) : -67108864 ≤ provisional mode x ∧ provisional mode x ≤ 67076096 := by
  cases mode with
  | exact => exact provisional_exact_mem x
  | binary32 =>
    obtain ⟨hlow, hup⟩ := provisional_binary32_mem x
    exact ⟨hlow, by omega⟩

/-- Where the clamp does not act, the provisional mantissa changes sign with the operand. -/
theorem provisional_neg {mode : F16Arith} {x : ℚ} (hup : |x| ≤ clampUpper mode) (hlow : clampLower mode ≤ -|x|) :
    provisional mode (-x) = -provisional mode x := by
  have hle := le_abs_self x
  have hge := neg_abs_le x
  have hclamp : clampF mode x = x := clampF_inside (by linarith) (by linarith)
  have hclamp' : clampF mode (-x) = -x := clampF_inside (by linarith) (by linarith)
  cases mode with
  | exact => rw [provisional_exact_eq, provisional_exact_eq, hclamp, hclamp', mul_neg, trunc_neg]
  | binary32 => rw [provisional_binary32_eq, provisional_binary32_eq, hclamp, hclamp', mul_neg, fl32_neg, trunc_neg]

/-! ### Mantissa and exponent -/

/-- The mantissa and the exponent that PACK.F16 gives a real (R112 to R116, R119). -/
def splitOf (mode : F16Arith) (x : ℚ) : Int × Nat := renorm 16 (provisional mode x) 0

theorem packReal_eq (mode : F16Arith) (x : ℚ) : packReal mode x = f16Frame (splitOf mode x).1 (splitOf mode x).2 := rfl

theorem splitOf_isClosedForm (mode : F16Arith) (x : ℚ) :
    IsClosedForm (provisional mode x) (splitOf mode x).1 (splitOf mode x).2 := by
  obtain ⟨hlow, hup⟩ := provisional_mem mode x
  exact renorm_isClosedForm hlow hup

/-- The last halving brought the mantissa into range from outside, so that it is half of something outside. -/
theorem IsClosedForm.normal {m0 m : Int} {e : Nat} (h : IsClosedForm m0 m e) :
    e = 0 ∨ (1024 ≤ m ∧ m ≤ 2047) ∨ (-2048 ≤ m ∧ m ≤ -1024) := by
  obtain ⟨-, hm, hmin, hmax, hout⟩ := h
  cases e with
  | zero => exact .inl rfl
  | succ j =>
    have hj := hout j j.lt_succ_self
    generalize htrunc : trunc ((m0 : ℚ) / 2 ^ j) = t at hj
    have hhalf : m = trunc ((t : ℚ) / 2) := by
      have htwice := trunc_trunc_div_natCast ((m0 : ℚ) / 2 ^ j) 2
      rw [htrunc, Nat.cast_ofNat, div_div, ← pow_succ] at htwice
      rw [hm, htwice]
    rcases lt_or_ge t 2048 with hlt | hge
    · have hcast : (t : ℚ) ≤ -2049 := by exact_mod_cast (by omega : t ≤ -2049)
      exact .inr (.inr ⟨hmin, hhalf.trans_le (trunc_le (by push_cast; linarith))⟩)
    · have hcast : (2048 : ℚ) ≤ t := by exact_mod_cast hge
      exact .inr (.inl ⟨(le_trunc (by push_cast; linarith)).trans_eq hhalf.symm, hmax⟩)

/-- The frame of a real, and the fields that extraction reads from it (R117, R120). -/
theorem packReal_fields (mode : F16Arith) (x : ℚ) : ∃ b1 b2, packReal mode x = [0x00, b1, b2] ∧
    ∀ h a b, f16Mantissa ⟨h, b1, b2, a, b⟩ = (splitOf mode x).1 ∧
      f16Exponent ⟨h, b1, b2, a, b⟩ = (splitOf mode x).2 := by
  obtain ⟨he, -, hmin, hmax, -⟩ := splitOf_isClosedForm mode x
  exact ⟨_, _, f16Frame_eq_payload _ _, fun _ _ _ => fields_of_f16Payload hmin hmax he (append_payload_bytes _)⟩

/-- The frame of the least encoding is that of everything at the lower end of the provisional range. -/
theorem packReal_eq_least_iff {mode : F16Arith} {x : ℚ} :
    packReal mode x = [0x00, 0xF8, 0x00] ↔ provisional mode x ≤ -67108864 := by
  constructor
  · intro h
    obtain ⟨b1, b2, hframe, hfields⟩ := packReal_fields mode x
    obtain ⟨rfl, rfl⟩ : b1 = 0xF8 ∧ b2 = 0x00 := by simpa using hframe.symm.trans h
    obtain ⟨hm, he⟩ := hfields 0 0 0
    obtain ⟨-, htrunc, -⟩ := splitOf_isClosedForm mode x
    rw [← hm, ← he] at htrunc
    have hle := (trunc_le_iff (by decide)).mp (htrunc.symm.le.trans_eq (by decide : _ = (-2048 : Int)))
    rw [div_le_iff₀ (by positivity)] at hle
    exact_mod_cast hle
  · intro h
    have heq : provisional mode x = -67108864 := le_antisymm h (provisional_mem mode x).1
    rw [packReal, heq]
    decide

/-- The frame of the greatest encoding likewise. -/
theorem packReal_eq_greatest_iff {mode : F16Arith} {x : ℚ} :
    packReal mode x = [0x00, 0x7F, 0xFF] ↔ 67076096 ≤ provisional mode x := by
  constructor
  · intro h
    obtain ⟨b1, b2, hframe, hfields⟩ := packReal_fields mode x
    obtain ⟨rfl, rfl⟩ : b1 = 0x7F ∧ b2 = 0xFF := by simpa using hframe.symm.trans h
    obtain ⟨hm, he⟩ := hfields 0 0 0
    obtain ⟨-, htrunc, -⟩ := splitOf_isClosedForm mode x
    rw [← hm, ← he] at htrunc
    have hle := (le_trunc_iff (by decide)).mp ((by decide : (2047 : Int) = _).trans_le htrunc.le)
    rw [le_div_iff₀ (by positivity)] at hle
    exact_mod_cast hle
  · intro h
    have heq : provisional mode x = 67076096 := le_antisymm (provisional_mem mode x).2 h
    rw [packReal, heq]
    decide

/-- A word is a NaN, an infinity, or finite (R9, R118). -/
theorem word_class (x : Word) : isNaN x = true ∨ x = 0x7F800000 ∨ x = 0xFF800000 ∨ isFinite x = true := by
  have he := expField_eq x
  have hf := fracField_eq x
  by_cases hexp : expField x = 0xFF
  · by_cases hfrac : fracField x = 0
    · have hbits : x.toNat % 2 ^ 31 = 0x7F800000 := by omega
      cases hsign : x.getLsbD 31 with
      | true => exact .inr (.inr (.inl (word_ext hsign hbits)))
      | false => exact .inr (.inl (word_ext hsign hbits))
    · exact .inl (by simp [isNaN, hexp, hfrac])
  · exact .inr (.inr (.inr (by simp [isFinite, hexp])))

/-- Which words pack to a frame, by the class of the word (R118, R128, R129). -/
theorem packF16_eq_iff {mode : F16Arith} {x : Word} {f : Frame} : packF16 mode x = f ↔
    (isNaN x = true ∧ [0x00, 0x7F, 0xFF] = f) ∨ (x = 0x7F800000 ∧ packF16 mode 0x7F800000 = f) ∨
      (x = 0xFF800000 ∧ packF16 mode 0xFF800000 = f) ∨ (isFinite x = true ∧ packReal mode (val32 x) = f) := by
  constructor
  · rintro rfl
    rcases word_class x with h | rfl | rfl | h
    · exact .inl ⟨h, (packF16_nan h).symm⟩
    · exact .inr (.inl ⟨rfl, rfl⟩)
    · exact .inr (.inr (.inl ⟨rfl, rfl⟩))
    · exact .inr (.inr (.inr ⟨h, (packF16_finite h).symm⟩))
  · rintro (⟨h, rfl⟩ | ⟨rfl, rfl⟩ | ⟨rfl, rfl⟩ | ⟨h, rfl⟩)
    · exact packF16_nan h
    · rfl
    · rfl
    · exact packF16_finite h

/-! ### Words around the bounds -/

/-- A value above a word's is that of the next word or above. -/
theorem le_val32_of_gap {w c c' : Word} (hnext : c'.toNat % 2 ^ 31 = c.toNat % 2 ^ 31 + 1)
    (h : magnitude32 c < val32 w) : magnitude32 c' ≤ val32 w := by
  obtain ⟨-, hval⟩ := val32_of_pos ((magnitude32_nonneg c).trans_lt h)
  rw [hval] at h ⊢
  exact magnitude32_le_of_gap hnext h

theorem val32_le_of_gap {w c c' : Word} (hnext : c'.toNat % 2 ^ 31 = c.toNat % 2 ^ 31 + 1)
    (h : val32 w < -magnitude32 c) : val32 w ≤ -magnitude32 c' := by
  have hflip := le_val32_of_gap (w := w ^^^ 0x80000000) hnext (by rw [val32_xor_sign]; linarith)
  rw [val32_xor_sign] at hflip
  linarith

/-- The magnitudes of the words around `U` and around `-L` (R112). -/
theorem magnitude32_around_bounds :
    magnitude32 0x4923C28F = 670760.9375 ∧ magnitude32 0x4923C290 = 670761 ∧
      magnitude32 0x4923D709 = 671088.5625 ∧ magnitude32 0x4923D70A = 671088.625 ∧
      magnitude32 0x4923D70B = 671088.6875 := by decide +kernel

/-- The least binary32 value from `U` up is 670761.0. -/
theorem upperBound_le_val32_iff {w : Word} : upperBound ≤ val32 w ↔ 670761 ≤ val32 w := by
  obtain ⟨hbelow, habove, -⟩ := magnitude32_around_bounds
  unfold upperBound
  refine ⟨fun h => ?_, fun h => by linarith⟩
  rw [← habove]
  exact le_val32_of_gap (c := 0x4923C28F) rfl (by rw [hbelow]; norm_num; linarith)

/-- The greatest binary32 value from `L` down is -671088.6875. -/
theorem val32_le_lowerBound_iff {w : Word} : val32 w ≤ lowerBound ↔ val32 w ≤ -671088.6875 := by
  obtain ⟨-, -, -, hbelow, habove⟩ := magnitude32_around_bounds
  unfold lowerBound
  refine ⟨fun h => ?_, fun h => by norm_num at h; linarith⟩
  rw [← habove]
  exact val32_le_of_gap (c := 0x4923D70A) rfl (by rw [hbelow]; norm_num; linarith)

/-- Above `L32` the next binary32 value is -671088.5625. -/
theorem val32_ge_of_gt_clampLower {w : Word} (h : -671088.625 < val32 w) : -671088.5625 ≤ val32 w := by
  obtain ⟨-, -, hbelow, habove, -⟩ := magnitude32_around_bounds
  rw [← habove] at h
  rw [← hbelow]
  exact le_of_not_gt fun hlt => absurd (val32_le_of_gap (c' := 0x4923D70A) rfl hlt) (not_le.mpr h)

end Sys2Proof.Machine
end

section
/-! The family of 43_float16.md, section 2 and 3: the clamp, the loop, and the codec under `BINARY32`. -/

namespace Sys2Proof.Machine

/-- Settles O23: the loop's closed form over the range that the clamp allows. -/
theorem renormClosedForm : Obligations.RenormClosedForm := fun _ => renorm_isClosedForm

/-- Settles O16: every frame of PACK.F16 has three bytes, the first 0. -/
theorem packF16Completes : Obligations.PackF16Completes := by
  refine ⟨fun _ _ => decode_of_packOp .float16, fun x s => ?_⟩
  obtain ⟨b1, b2, hframe⟩ := packF16_shape .exact x
  exact ⟨b1, b2, hframe, exec_packF16_of_frame hframe s⟩

/-- The clamp acts exactly outside its bounds. -/
theorem clampF_exact_ne_iff (x : ℚ) : clampF .exact x ≠ x ↔ upperBound < x ∨ x < lowerBound := by
  obtain ⟨hlow, hup⟩ := clampF_mem .exact x
  constructor
  · intro h
    by_contra hinside
    obtain ⟨hle, hge⟩ := not_or.mp hinside
    exact h (clampF_inside (not_lt.mp hle) (not_lt.mp hge))
  · rintro (h | h) heq <;> rw [heq] at hlow hup
    · exact absurd h (not_lt.mpr hup)
    · exact absurd h (not_lt.mpr hlow)

/-- Neither bound is a binary32 value, so that a word's value is never at one. -/
theorem val32_ne_bounds (w : Word) : val32 w ≠ upperBound ∧ val32 w ≠ lowerBound := by
  have hup := upperBound_le_val32_iff (w := w)
  have hlow := val32_le_lowerBound_iff (w := w)
  constructor <;> intro h
  · have hge := hup.mp h.ge
    norm_num [h, upperBound] at hge
  · have hle := hlow.mp h.le
    norm_num [h, lowerBound] at hle

/-- Settles O25: the clamp by its cases, and the words next to its bounds. -/
theorem clampSaturates : Obligations.ClampSaturates := by
  have hbounds : lowerBound ≤ upperBound := clampLower_le_clampUpper .exact
  refine ⟨by norm_num [upperBound, f16Value], by norm_num [lowerBound, f16Value], fun x h => clampF_above h,
    fun x h => clampF_below (h.le.trans hbounds) h, fun x hlow hup => clampF_inside hup hlow, fun w _ => ?_⟩
  obtain ⟨hup, hlow⟩ := val32_ne_bounds w
  rw [clampF_exact_ne_iff, ← upperBound_le_val32_iff, ← val32_le_lowerBound_iff, hup.symm.le_iff_lt, hlow.le_iff_lt]

/-! ### PACK.F16 under BINARY32 -/

/-- The words of the two bounds (R119). -/
theorem rne32_bounds : rne32 (67076096 / 100) = 0x4923C28F ∧ val32 0x4923C28F = 670760.9375 ∧
    rne32 (-67108864 / 100) = 0xC923D70A ∧ val32 0xC923D70A = -671088.625 := by decide +kernel

/-- A finite operand under BINARY32: the closed form of its rounded product, packed. -/
theorem packF16_binary32_finite {x : Word} (h : isFinite x = true) : ∃ (m : Int) (e : Nat),
    IsClosedForm (provisional .binary32 (val32 x)) m e ∧
    packF16 .binary32 x = [0x00, (f16Payload m e).extractLsb' 8 8, (f16Payload m e).extractLsb' 0 8] :=
  ⟨_, _, splitOf_isClosedForm .binary32 (val32 x), by rw [packF16_finite h, packReal_eq, f16Frame_eq_payload]⟩

/-- Settles O19: rounding keeps the order, so that the product stays between those of the bounds. -/
theorem packF16Binary32Result : Obligations.PackF16Binary32Result := by
  obtain ⟨hup, hvalUp, hlow, hvalLow⟩ := rne32_bounds
  refine ⟨hup, hvalUp, hlow, hvalLow, fun x hexp => ?_, by decide +kernel, by decide +kernel, by decide +kernel⟩
  rw [← clampLower_binary32, ← clampUpper_binary32, ← clampF_eq_max_min]
  obtain ⟨m, e, hclosed, hframe⟩ := packF16_binary32_finite (isFinite_of_fields hexp)
  obtain ⟨hleast, hgreatest⟩ := product_binary32_mem (val32 x)
  exact ⟨_, m, e, rfl, abs_le.mpr ⟨by linarith, by linarith⟩, hclosed, hframe⟩

/-! ### UNPACK.F16 before its last rounding -/

/-- The number that UNPACK.F16 rounds to its result: the exact value (R121), or the scaled product of the rounded 0.01
(R122). -/
def unroundedValue (mode : F16Arith) (m : Int) (e : Nat) : ℚ :=
  match mode with
  | .exact => f16Value m e
  | .binary32 => fl32 (fl32 (1 / 100) * m) * 2 ^ e

theorem decodeReal_eq (mode : F16Arith) (m : Int) (e : Nat) :
    decodeReal mode m e = rne32 (unroundedValue mode m e) := by
  cases mode <;> rfl

/-- UNPACK.F16 of three bytes. -/
theorem unpackF16_three (mode : F16Arith) (d : Lanes) :
    unpackF16 mode 3 d = .ok (decodeReal mode (f16Mantissa d) (f16Exponent d)) := by
  rw [unpackF16_eq, if_pos rfl]

theorem unpackF16_three_of {mode : F16Arith} {d : Lanes} {w : Word}
    (h : decodeReal mode (f16Mantissa d) (f16Exponent d) = w) : unpackF16 mode 3 d = .ok w := by
  rw [unpackF16_three, h]

theorem rne32_cent : rne32 (1 / 100) = 0x3C23D70A := by decide +kernel

theorem val32_cent : val32 0x3C23D70A = 999999977648258209228515625 / 10 ^ 29 := by decide +kernel

theorem fl32_cent : fl32 (1 / 100) = val32 0x3C23D70A := by rw [fl32, rne32_cent]

/-- The product of 0.01 and a mantissa is below 32 in magnitude, so that its scaling stays in range. -/
theorem abs_unroundedValue_binary32_lt {m : Int} {e : Nat} (hmin : -2048 ≤ m) (hmax : m ≤ 2047) (he : e ≤ 15) :
    |unroundedValue .binary32 m e| < 2 ^ 128 - 2 ^ 103 := by
  have hminQ : (-2048 : ℚ) ≤ m := by exact_mod_cast hmin
  have hmaxQ : (m : ℚ) ≤ 2047 := by exact_mod_cast hmax
  have hcent : 0 ≤ fl32 (1 / 100) := fl32_nonneg (by norm_num)
  have hbound : fl32 (fl32 (1 / 100) * 2048) ≤ 32 := by decide +kernel
  have hup := fl32_mono (mul_le_mul_of_nonneg_left (hmaxQ.trans (by norm_num : (2047 : ℚ) ≤ 2048)) hcent)
  have hlow := fl32_mono (mul_le_mul_of_nonneg_left hminQ hcent)
  rw [mul_neg, fl32_neg] at hlow
  have hpow : (2 : ℚ) ^ e ≤ 2 ^ 15 := pow_le_pow_right₀ (by norm_num) he
  calc |unroundedValue .binary32 m e| = |fl32 (fl32 (1 / 100) * m)| * 2 ^ e := by
        rw [unroundedValue, abs_mul, abs_of_pos (by positivity : (0 : ℚ) < 2 ^ e)]
    _ ≤ 32 * 2 ^ 15 := by gcongr; exact abs_le.mpr ⟨by linarith, by linarith⟩
    _ < 2 ^ 128 - 2 ^ 103 := by norm_num

/-- Settles O15: the product is a binary32 value, and a power of two scales it exactly. -/
theorem unpackF16Binary32Result : Obligations.UnpackF16Binary32Result := by
  refine ⟨rne32_cent, val32_cent, fun d => ⟨_, rfl, ?_, ?_, fun hzero => ?_⟩, unpackF16_three_of (by decide +kernel),
    unpackF16_three_of (by decide +kernel), unpackF16_three_of (by decide +kernel),
    unpackF16_three_of (by decide +kernel)⟩
  · rw [unpackF16_three, decodeReal_eq, unroundedValue, fl32_cent]
  · obtain ⟨hmin, hmax⟩ := f16Mantissa_mem d
    have hfin := abs_unroundedValue_binary32_lt hmin hmax (f16Exponent_le d)
    rw [unroundedValue, fl32_cent] at hfin
    exact fl32_val32_mul_two_pow hfin
  · rw [hzero, Int.cast_zero, mul_zero, fl32_zero, zero_mul]
    exact rne32_zero

end Sys2Proof.Machine
end

section
/-! The family of 43_float16.md, section 4: the laws that PACK.F16 and UNPACK.F16 satisfy together. -/

namespace Sys2Proof.Machine

/-! ### Quantization error -/

theorem provisional_exact_inside {x : ℚ} (hlow : lowerBound ≤ x) (hup : x ≤ upperBound) :
    provisional .exact x = trunc (100 * x) := by
  rw [provisional_exact_eq, clampF_inside (mode := .exact) hup hlow]

/-- The mantissa of a real in range is one truncated quotient of it (R116, R123). -/
theorem splitOf_exact_mantissa {x : ℚ} (hlow : lowerBound ≤ x) (hup : x ≤ upperBound) :
    (splitOf .exact x).1 = trunc (100 * x / 2 ^ (splitOf .exact x).2) := by
  obtain ⟨-, hm, -⟩ := splitOf_isClosedForm .exact x
  have honce := trunc_trunc_div_natCast (100 * x) (2 ^ (splitOf .exact x).2)
  push_cast at honce
  rw [provisional_exact_inside hlow hup, honce] at hm
  exact hm

/-- Truncating in units of `0.01 * 2^e` loses less than one unit, and never moves away from zero (R123). -/
theorem f16Value_trunc_error {x : ℚ} {m : Int} {e : Nat} (hm : m = trunc (100 * x / 2 ^ e)) :
    |x - f16Value m e| < 2 ^ e / 100 ∧ |f16Value m e| ≤ |x| := by
  have hunit : (0 : ℚ) < 2 ^ e / 100 := by positivity
  have hx : x = 100 * x / 2 ^ e * (2 ^ e / 100) := by field_simp
  have hvalue : f16Value m e = trunc (100 * x / 2 ^ e) * (2 ^ e / 100) := by rw [f16Value, hm]; ring
  have hlt := abs_sub_trunc_lt (100 * x / 2 ^ e)
  have hle := abs_trunc_le (100 * x / 2 ^ e)
  rw [hvalue]
  generalize 100 * x / 2 ^ e = y at hx hlt hle
  rw [hx, ← sub_mul, abs_mul, abs_mul, abs_mul, abs_of_pos hunit]
  exact ⟨by nlinarith, by gcongr⟩

/-- PACK.F16 of a word in range, and the fields of its frame (R118, R120). -/
theorem exec_packF16_split {x : Word} (h : isFinite x = true) (s : State) : ∃ d,
    exec (.packF16 x) s = .next (s.withFrame 3 d) ∧ f16Mantissa d = (splitOf .exact (val32 x)).1 ∧
      f16Exponent d = (splitOf .exact (val32 x)).2 := by
  obtain ⟨b1, b2, hframe, hfields⟩ := packReal_fields .exact (val32 x)
  exact ⟨_, exec_packF16_of_frame ((packF16_finite h).trans hframe) s, hfields 0 0 0⟩

/-- Settles O26: the packed mantissa is the truncated quotient. -/
theorem quantizationError : Obligations.QuantizationError := by
  intro x s hfin hlow hup
  obtain ⟨d, hexec, hm, he⟩ := exec_packF16_split hfin s
  have hquot : f16Mantissa d = trunc (100 * val32 x / 2 ^ f16Exponent d) := by
    rw [hm, he, splitOf_exact_mantissa hlow hup]
  exact ⟨d, hexec, hquot, f16Value_trunc_error hquot⟩

/-- The decoded value is within half a unit in its last place of the encoding's exact one (R121). -/
theorem abs_f16Value_sub_rne32_le (d : Lanes) :
    |f16Value (f16Mantissa d) (f16Exponent d) - val32 (rne32 (f16Value (f16Mantissa d) (f16Exponent d)))| ≤
      ulp32 (rne32 (f16Value (f16Mantissa d) (f16Exponent d))) / 2 := by
  obtain ⟨hmin, hmax⟩ := f16Mantissa_mem d
  obtain ⟨hexp, -⟩ := rne32_f16Value_regular hmin hmax (f16Exponent_le d)
  exact abs_sub_rne32_le (bne_iff_ne.mpr hexp)

/-- Settles O27: the two errors add up; -0.22 shows that the second one is needed. -/
theorem decodedErrorBound : Obligations.DecodedErrorBound := by
  refine ⟨fun x s hfin hlow hup => ?_, by decide +kernel, unpackF16_three_of (by decide +kernel), by decide +kernel⟩
  obtain ⟨d, hexec, -, herr, -⟩ := quantizationError x s hfin hlow hup
  refine ⟨d, _, hexec, exec_unpackF16_three d _, ?_⟩
  have hround := abs_f16Value_sub_rne32_le d
  generalize f16Value (f16Mantissa d) (f16Exponent d) = q at herr hround ⊢
  rw [abs_sub_comm] at herr hround
  calc |val32 (rne32 q) - val32 x| ≤ |val32 (rne32 q) - q| + |q - val32 x| := abs_sub_le _ _ _
    _ < 2 ^ f16Exponent d / 100 + ulp32 (rne32 q) / 2 := by linarith

/-- Settles O28, by running the codec on the spec's example. -/
theorem decodeThenEncodeChanges : Obligations.DecodeThenEncodeChanges := by
  refine ⟨fun mode => ?_, by decide +kernel, by decide +kernel⟩
  cases mode <;> exact unpackF16_three_of (by decide +kernel)

/-! ### Normal form -/

/-- A frame whose exponent is 0, or whose mantissa uses its upper bit (R125). -/
def NormalFrame (f : Frame) : Prop :=
  ∃ b1 b2, f = [0x00, b1, b2] ∧ ∀ h a b,
    f16Exponent ⟨h, b1, b2, a, b⟩ = 0 ∨
    (1024 ≤ f16Mantissa ⟨h, b1, b2, a, b⟩ ∧ f16Mantissa ⟨h, b1, b2, a, b⟩ ≤ 2047) ∨
    (-2048 ≤ f16Mantissa ⟨h, b1, b2, a, b⟩ ∧ f16Mantissa ⟨h, b1, b2, a, b⟩ ≤ -1024)

theorem packReal_normal (mode : F16Arith) (x : ℚ) : NormalFrame (packReal mode x) := by
  obtain ⟨b1, b2, hframe, hfields⟩ := packReal_fields mode x
  refine ⟨b1, b2, hframe, fun h a b => ?_⟩
  obtain ⟨hm, he⟩ := hfields h a b
  rw [hm, he]
  exact (splitOf_isClosedForm mode x).normal

/-- The frame of NaN has the mantissa of the greatest encoding (R128). -/
theorem nanFrame_normal : NormalFrame [0x00, 0x7F, 0xFF] := by
  have hpayload : (0x7F : Byte) ++ (0xFF : Byte) = f16Payload 2047 15 := by decide
  refine ⟨0x7F, 0xFF, rfl, fun h a b => .inr (.inl ?_)⟩
  obtain ⟨hm, -⟩ := fields_of_f16Payload (by decide) (by decide) (by decide) (d := ⟨h, 0x7F, 0xFF, a, b⟩) hpayload
  rw [hm]
  decide

theorem packF16_normal (mode : F16Arith) (x : Word) : NormalFrame (packF16 mode x) := by
  rcases word_class x with h | rfl | rfl | h
  · exact (packF16_nan h).symm ▸ nanFrame_normal
  · exact packReal_normal mode _
  · exact packReal_normal mode _
  · exact (packF16_finite h).symm ▸ packReal_normal mode _

theorem f16Value_mem (d : Lanes) : lowerBound ≤ f16Value (f16Mantissa d) (f16Exponent d) ∧
    f16Value (f16Mantissa d) (f16Exponent d) ≤ upperBound := by
  obtain ⟨hmin, hmax⟩ := f16Mantissa_mem d
  have hup : 0 < upperBound := by norm_num [upperBound]
  have hlow : lowerBound < 0 := by norm_num [lowerBound]
  obtain h | ⟨h, h'⟩ | ⟨h, h'⟩ := f16Value_cases hmin hmax (f16Exponent_le d) <;> constructor <;> linarith

/-- Settles O29: the last halving leaves a normal mantissa, and every encoding lies between the bounds. -/
theorem packNormalForm : Obligations.PackNormalForm := ⟨packF16_normal, f16Value_mem⟩

/-- Settles O32: the product truncates to 0, which needs no halving. -/
theorem tinyValuesPackToZero : Obligations.TinyValuesPackToZero := by
  intro x s hfin hx
  obtain ⟨hlow, hup⟩ := abs_lt.mp hx
  have hzero : provisional .exact (val32 x) = 0 := by
    rw [provisional_exact_inside (by unfold lowerBound; linarith) (by unfold upperBound; linarith)]
    refine trunc_eq_zero ?_
    rw [abs_mul, abs_of_pos (by norm_num)]
    linarith
  refine exec_packF16_of_frame ?_ s
  rw [packF16_finite hfin, packReal, hzero]
  decide

/-! ### The sign -/

theorem tdiv2_neg (m : Int) : tdiv2 (-m) = -tdiv2 m := Int.neg_tdiv m 2

theorem iterate_tdiv2_neg (k : Nat) (m : Int) : tdiv2^[k] (-m) = -tdiv2^[k] m := by
  rw [iterate_tdiv2, iterate_tdiv2, Int.neg_tdiv]

/-- The loop on the negated mantissa takes the same turns, but for one that ends at 2048, which is out of range while
-2048 is not (R126). -/
theorem renorm_neg (fuel : Nat) (m : Int) (e : Nat) :
    renorm fuel (-m) e = (-(renorm fuel m e).1, (renorm fuel m e).2) ∨
    (∃ k, renorm fuel m e = (1024, k + 1) ∧ renorm fuel (-m) e = (-2048, k)) ∨
    (∃ k, renorm fuel m e = (-2048, k) ∧ renorm fuel (-m) e = (1024, k + 1)) := by
  induction fuel generalizing m e with
  | zero => exact .inl rfl
  | succ fuel ih =>
    have hcarry : renorm (fuel + 1) 2048 e = (1024, e + 1) :=
      (renorm_outside (by decide)).trans (renorm_inside (m := 1024) (by decide))
    have hstay : renorm (fuel + 1) (-2048) e = (-2048, e) := renorm_inside (by decide)
    by_cases hpos : m = 2048
    · exact .inr (.inl ⟨e, hpos ▸ hcarry, hpos ▸ hstay⟩)
    by_cases hneg : m = -2048
    · exact .inr (.inr ⟨e, hneg ▸ hstay, hneg ▸ hcarry⟩)
    have hsame : inMantissaRange (-m) = inMantissaRange m := by
      rw [Bool.eq_iff_iff, inMantissaRange_iff, inMantissaRange_iff]
      omega
    cases hrange : inMantissaRange m with
    | true => exact .inl (by rw [renorm_inside hrange, renorm_inside (hsame.trans hrange)])
    | false =>
      rw [renorm_outside hrange, renorm_outside (hsame.trans hrange), tdiv2_neg]
      exact ih (tdiv2 m) (e + 1)

theorem unroundedValue_neg (mode : F16Arith) (m : Int) (e : Nat) :
    unroundedValue mode (-m) e = -unroundedValue mode m e := by
  cases mode with
  | exact => simp only [unroundedValue, f16Value]; push_cast; ring
  | binary32 => simp only [unroundedValue, Int.cast_neg, mul_neg, fl32_neg, neg_mul]

/-- 1024 one place higher is 2048, in both modes. -/
theorem unroundedValue_carry (mode : F16Arith) (e : Nat) :
    unroundedValue mode 1024 (e + 1) = unroundedValue mode 2048 e := by
  cases mode with
  | exact => simp only [unroundedValue, f16Value]; push_cast; ring
  | binary32 =>
    have hdouble : fl32 (fl32 (1 / 100) * (1024 : Int)) * 2 = fl32 (fl32 (1 / 100) * (2048 : Int)) := by decide +kernel
    rw [unroundedValue, unroundedValue, ← hdouble, pow_succ]
    ring

/-- An encoding of 0 decodes from 0, any other from a number that does not round to 0. -/
theorem unroundedValue_zero (mode : F16Arith) (e : Nat) : unroundedValue mode 0 e = 0 := by
  cases mode with
  | exact => simp [unroundedValue, f16Value]
  | binary32 => rw [unroundedValue, Int.cast_zero, mul_zero, fl32_zero, zero_mul]

theorem le_abs_unroundedValue (mode : F16Arith) {m : Int} (hm : m ≠ 0) (e : Nat) :
    1 / 128 ≤ |unroundedValue mode m e| := by
  wlog hpos : 0 < m generalizing m
  · rw [← abs_neg, ← unroundedValue_neg]
    exact this (neg_ne_zero.mpr hm) (by omega)
  have hmQ : (1 : ℚ) ≤ m := by exact_mod_cast hpos
  have hpow : (1 : ℚ) ≤ 2 ^ e := one_le_pow₀ (by norm_num)
  refine le_trans ?_ (le_abs_self _)
  cases mode with
  | exact => rw [unroundedValue, f16Value]; nlinarith
  | binary32 =>
    have hleast : (1 / 128 : ℚ) ≤ fl32 (fl32 (1 / 100) * 1) := by decide +kernel
    have hmono := fl32_mono (mul_le_mul_of_nonneg_left hmQ (fl32_nonneg (by norm_num : (0 : ℚ) ≤ 1 / 100)))
    rw [unroundedValue]
    nlinarith

/-- Opposite encodings decode to words that differ in the sign bit only, or to +0.0 both (R126). -/
theorem decodeReal_neg {mode : F16Arith} {m m' : Int} {e e' : Nat}
    (h : unroundedValue mode m' e' = -unroundedValue mode m e) :
    (decodeReal mode m e = 0 ∧ decodeReal mode m' e' = 0) ∨
      (decodeReal mode m e ≠ 0 ∧ decodeReal mode m' e' = decodeReal mode m e ^^^ 0x80000000) := by
  rw [decodeReal_eq, decodeReal_eq, h]
  by_cases hm : m = 0
  · rw [hm, unroundedValue_zero, neg_zero]
    exact .inl ⟨rne32_zero, rne32_zero⟩
  · have hle := le_abs_unroundedValue mode hm e
    exact .inr ⟨rne32_ne_zero hle, rne32_neg (abs_pos.mp (by linarith))⟩

/-- Packing and then unpacking a real. -/
theorem unpackF16_packReal (mode : F16Arith) (x : ℚ) : unpackF16 mode 3 (lanesOfFrame (packReal mode x)) =
    .ok (decodeReal mode (splitOf mode x).1 (splitOf mode x).2) := by
  obtain ⟨b1, b2, hframe, hfields⟩ := packReal_fields mode x
  obtain ⟨hm, he⟩ := hfields 0 0 0
  refine unpackF16_three_of ?_
  rw [hframe, ← hm, ← he]
  rfl

/-- The encoding of a negated real stands for the negated number, whatever its split (R126). -/
theorem unroundedValue_splitOf_neg {mode : F16Arith} {x : ℚ} (hup : |x| ≤ clampUpper mode)
    (hlow : clampLower mode ≤ -|x|) :
    unroundedValue mode (splitOf mode (-x)).1 (splitOf mode (-x)).2 =
      -unroundedValue mode (splitOf mode x).1 (splitOf mode x).2 := by
  unfold splitOf
  rw [provisional_neg hup hlow]
  obtain h | ⟨k, h, h'⟩ | ⟨k, h, h'⟩ := renorm_neg 16 (provisional mode x) 0
  · rw [h, unroundedValue_neg]
  · rw [h, h', unroundedValue_neg, unroundedValue_carry]
  · rw [h, h', unroundedValue_neg, unroundedValue_carry, neg_neg]

/-- Settles O30: the negated word packs to an encoding of the negated number. -/
theorem signSymmetry : Obligations.SignSymmetry := by
  intro mode x hfin hx
  have hbounds : 670760.9375 ≤ clampUpper mode ∧ clampLower mode ≤ -670760.9375 := by
    cases mode with
    | exact => norm_num [clampUpper, clampLower, upperBound, lowerBound]
    | binary32 => norm_num [clampUpper_binary32, clampLower_binary32]
  obtain ⟨hup, hlow⟩ := hbounds
  have hneg := unroundedValue_splitOf_neg (hx.trans hup) (by linarith : clampLower mode ≤ -|val32 x|)
  rw [packF16_finite hfin, packF16_finite ((isFinite_xor_sign x).trans hfin), val32_xor_sign]
  exact ⟨_, _, unpackF16_packReal mode _, unpackF16_packReal mode _, decodeReal_neg hneg⟩

/-- Halving a mantissa of the interval `[2048 * 2^k, 2049 * 2^k)` gives 2048 after `k` turns, and before that at least
4096. -/
theorem iterate_tdiv2_interval {k : Nat} {m0 : Int} (hlow : 2048 * 2 ^ k ≤ m0) (hup : m0 < 2048 * 2 ^ k + 2 ^ k) :
    tdiv2^[k] m0 = 2048 ∧ ∀ j, j < k → 4096 ≤ tdiv2^[j] m0 := by
  have hlowQ : (2048 * 2 ^ k : ℚ) ≤ m0 := by exact_mod_cast hlow
  have hupQ : (m0 : ℚ) < 2048 * 2 ^ k + 2 ^ k := by exact_mod_cast hup
  constructor
  · have hge : (2048 : ℚ) ≤ m0 / 2 ^ k := by rwa [le_div_iff₀ (by positivity)]
    rw [iterate_tdiv2_eq_trunc, trunc_of_nonneg (by linarith), Int.floor_eq_iff, div_lt_iff₀ (by positivity)]
    exact ⟨by exact_mod_cast hge, by push_cast; linarith⟩
  · intro j hj
    rw [iterate_tdiv2_eq_trunc]
    refine le_trunc ?_
    have hpow : (2 : ℚ) ^ (j + 1) ≤ 2 ^ k := pow_le_pow_right₀ (by norm_num) hj
    rw [pow_succ] at hpow
    rw [le_div_iff₀ (by positivity)]
    push_cast
    linarith

theorem inMantissaRange_eq_false {m : Int} (h : 2047 < m ∨ m < -2048) : inMantissaRange m = false := by
  rw [← Bool.not_eq_true, inMantissaRange_iff]
  omega

/-- Settles O31: the positive mantissa passes through 2048 and needs one more halving. -/
theorem splitDependsOnSign : Obligations.SplitDependsOnSign := by
  intro k m0 hk hlow hup
  obtain ⟨hlast, hbefore⟩ := iterate_tdiv2_interval hlow hup
  have hhalf : tdiv2^[k + 1] m0 = 1024 := by rw [Function.iterate_succ_apply', hlast]; rfl
  have hneg : tdiv2^[k] (-m0) = -2048 := by rw [iterate_tdiv2_neg, hlast]
  constructor
  · have hout : ∀ j, j < k + 1 → inMantissaRange (tdiv2^[j] m0) = false := fun j hj => by
      refine inMantissaRange_eq_false (.inl ?_)
      rcases Nat.lt_succ_iff_lt_or_eq.mp hj with hlt | rfl
      · linarith [hbefore j hlt]
      · rw [hlast]; decide
    rw [renorm_of_first (by omega : k + 1 ≤ 16) (by rw [hhalf]; decide) hout, hhalf, Nat.zero_add]
  · have hout : ∀ j, j < k → inMantissaRange (tdiv2^[j] (-m0)) = false := fun j hj => by
      refine inMantissaRange_eq_false (.inr ?_)
      rw [iterate_tdiv2_neg]
      linarith [hbefore j hj]
    rw [renorm_of_first (by omega : k ≤ 16) (by rw [hneg]; decide) hout, hneg, Nat.zero_add]

/-! ### The extreme frames -/

theorem provisional_exact_greatest_iff {x : ℚ} : 67076096 ≤ provisional .exact x ↔ upperBound ≤ x := by
  have hbounds : ¬ clampUpper .exact ≤ clampLower .exact := by
    norm_num [clampLower, clampUpper, lowerBound, upperBound]
  have hproduct : ((67076096 : Int) : ℚ) = 100 * clampUpper .exact := by norm_num [clampUpper, upperBound]
  rw [provisional_exact_eq, le_trunc_iff (by decide), hproduct, mul_le_mul_iff_right₀ (by norm_num),
    clampF_eq_max_min, le_max_iff, le_min_iff, or_iff_right hbounds, and_iff_right le_rfl]
  rfl

theorem provisional_exact_least_iff {x : ℚ} : provisional .exact x ≤ -67108864 ↔ x ≤ lowerBound := by
  have hbounds : ¬ clampUpper .exact ≤ clampLower .exact := by
    norm_num [clampLower, clampUpper, lowerBound, upperBound]
  have hproduct : ((-67108864 : Int) : ℚ) = 100 * clampLower .exact := by norm_num [clampLower, lowerBound]
  rw [provisional_exact_eq, trunc_le_iff (by decide), hproduct, mul_le_mul_iff_right₀ (by norm_num),
    clampF_eq_max_min, max_le_iff, min_le_iff, and_iff_right le_rfl, or_iff_right hbounds]
  rfl

/-- Under BINARY32 the least encoding is that of `L32` and what lies below; the next word's product rounds to
-67108856. -/
theorem provisional_binary32_least_iff {w : Word} :
    provisional .binary32 (val32 w) ≤ -67108864 ↔ val32 w ≤ -671088.625 := by
  obtain ⟨hleast, -⟩ := fl32_product_bounds
  rw [provisional_binary32_eq, trunc_le_iff (by decide)]
  constructor
  · intro h
    by_contra hgt
    have hge := val32_ge_of_gt_clampLower (not_le.mp hgt)
    have hnext : fl32 (100 * (-671088.5625)) = -67108856 := by decide +kernel
    have hclamp : -671088.5625 ≤ clampF .binary32 (val32 w) := by
      rw [clampF_eq_max_min, clampUpper_binary32]
      exact le_max_of_le_right (le_min (by norm_num) hge)
    have hmono := fl32_mono (mul_le_mul_of_nonneg_left hclamp (by norm_num : (0 : ℚ) ≤ 100))
    rw [hnext] at hmono
    push_cast at h
    linarith
  · intro h
    have hclamp : clampF .binary32 (val32 w) = clampLower .binary32 := by
      rw [clampF_eq_max_min, max_eq_left]
      exact min_le_of_right_le (clampLower_binary32 ▸ h)
    rw [hclamp, hleast]
    norm_num

/-- Settles O33, by the class of the word: the extreme frames are those of the ends of the provisional range. -/
theorem extremeFrames : Obligations.ExtremeFrames := by
  obtain ⟨hpos, hneg, hpos32, hneg32⟩ := packF16_infinities
  refine ⟨fun x => ?_, fun x => ?_, fun x => ?_, fun x => ?_, fun mode => ?_, by decide +kernel, by decide +kernel⟩
  · rw [packF16_eq_iff, hpos, hneg, packReal_eq_greatest_iff, provisional_exact_greatest_iff, upperBound_le_val32_iff]
    simp
  · rw [packF16_eq_iff, hpos, hneg, packReal_eq_least_iff, provisional_exact_least_iff, val32_le_lowerBound_iff]
    simp
  · have hbelow : ¬ 67076096 ≤ provisional .binary32 (val32 x) := by
      have hup := (provisional_binary32_mem (val32 x)).2
      omega
    rw [packF16_eq_iff, hpos32, hneg32, packReal_eq_greatest_iff]
    simp [hbelow]
  · rw [packF16_eq_iff, hpos32, hneg32, packReal_eq_least_iff, provisional_binary32_least_iff]
    simp
  · cases mode <;> decide +kernel

end Sys2Proof.Machine
end
